-- ==== Sys2Proof/Word.lean ====
section
/-! DEFINITION. The three widths the spec uses: the 16-bit register, the 8-bit unit of data and the 11-bit cycle input
word (`00_scope.md` R6 and R7). Nothing in the engine is signed (R8). -/

namespace Sys2Proof

/-- A content of the register `CRC`, or a value on the output `crc`: 16 bits, unsigned (R6 `WIDTH`, R13). -/
abbrev Word := BitVec 16

/-- The unit of data: one byte, all 256 values accepted (R6 `DATA_WIDTH`, R25). -/
abbrev Byte := BitVec 8

/-- The cycle input word `IN[10:0]`, sampled at one rising edge (R36). -/
abbrev InWord := BitVec 11

end Sys2Proof
end

