-- ==== Sys2Proof/Machine/Flags.lean ====
section
/-! DEFINITION. The engine has no flag, condition code or status bit (`10_state.md` R17). What stands here is the one bit that
decides anything, which is read and consumed inside a bit-step and kept nowhere. -/

namespace Sys2Proof.Machine

/-- The low bit, tested before the shift (R17, `40_crc_step.md` R47). -/
def testedBit (r : Word) : Bool := r.getLsbD 0

end Sys2Proof.Machine
end

