-- ==== Sys2Proof/Machine/Operands.lean ====
section
/-! DEFINITION. The one operand form (`30_encoding.md` R39). -/

namespace Sys2Proof.Machine

/-- The byte of the input word as it meets the register: zero-extended, `{0x00, data}` (R39), never sign-extended, shifted or
scaled. -/
def zext16 (b : Byte) : Word := b.setWidth 16

end Sys2Proof.Machine
end

