-- ==== Sys2Proof/Machine/State.lean ====
section
/-! DEFINITION. The state of the machine, the ways a step could stop, and the state after reset. -/

namespace Sys2Proof.Machine

/-- The state. `crc` is the whole architectural state of the engine (`10_state.md` R13): a 16-bit value, or `none`, which is
the spec's own state "no value" that the engine is in from power-on until the first RESET, INIT or START (R11, R62, R90;
log entry 1). `run` is the model's own field and no state of the engine (R16, R21 b): the input words the host will present at
the coming rising edges, the next one first (R11; DESIGN CHOICE, log entry 3). -/
structure State where
  crc : Option Word
  run : List InWord
  deriving DecidableEq, Repr

/-- The faults of the engine: none. The table of exception causes is empty and no step of any state stops with a fault
(`60_exceptions.md` R76, R81; log entry 8). -/
inductive Fault
  deriving DecidableEq, Repr

/-- The refusals. No step of this model refuses (R76; log entry 8). -/
inductive Refusal
  /-- Raised by no one: the pipeline's mark for an arm of the dispatch that has no meaning yet, and every arm has one. Safe. -/
  | notModelled (mnemonic : String)
  deriving DecidableEq, Repr

/-- The machine right after reset: a RESET step leaves `CRC = 0x0000` (R22, R88). No word is pending: no program is invented
(log entries 2 and 3). -/
def State.reset : State := { crc := some 0x0000, run := [] }

/-- The machine at power-on, before any RESET, INIT or START: "no value" (R22, R90). It is not the reset state. -/
def State.powerOn : State := { crc := none, run := [] }

end Sys2Proof.Machine
end

