-- ==== Sys2Proof/Machine/Ops.lean ====
section
/-! DEFINITION. The arithmetic of the engine (`40_crc_step.md` R47 to R49) and the named operations on its register and its
output. There is no memory to operate on (`20_memory.md` R24) and no exception to take or return from (`60_exceptions.md` R76,
R80), so no operation for either stands here. -/

namespace Sys2Proof.Machine

/-! ### Hardwired constants (literals, not configuration: R18) -/

/-- `POLY_R`, XORed in after a right shift (R6). -/
def polyR : Word := 0xA001

/-- `INIT`, the register value at the start of a message (R6). -/
def initValue : Word := 0x0000

/-! ### Arithmetic -/

/-- The bit-step: test the low bit, shift right logically by one, and XOR the constant in if the tested bit was 1 (R47). -/
def bitstep (r : Word) : Word := if testedBit r then (r >>> 1) ^^^ polyR else r >>> 1

/-- The XOR-in: the byte meets the low 8 bits of the register (R48). -/
def xorin (r : Word) (b : Byte) : Word := r ^^^ zext16 b

/-- `n` bit-steps, each on the result of the one before. -/
def bitsteps : Nat → Word → Word
  | 0, r => r
  | n + 1, r => bitsteps n (bitstep r)

/-- The byte-step: XOR the byte in, then exactly eight bit-steps (R49). -/
def bytestep (r : Word) (b : Byte) : Word := bitsteps 8 (xorin r b)

/-! ### The register and the output -/

/-- A write of the register: all 16 bits are replaced (R23). -/
def State.writeCrc (s : State) (v : Word) : State := { s with crc := some v }

/-- Absorb a byte into whatever the register holds; "no value" stays "no value" (R55, R62). -/
def State.absorb (s : State) (b : Byte) : State := { s with crc := s.crc.map fun r => bytestep r b }

/-- Load the initial value without reading the register (R54, R88). -/
def State.loadInit (s : State) : State := s.writeCrc initValue

/-- The output port: `out(s) = s`, the register as it is, with no final XOR, reversal or swap (R15, R52). In the state
"no value" the output has no specified value, and this is `none` (R15, R90). -/
def State.out (s : State) : Option Word := s.crc

/-- Whether sampling `crc` may show the pattern `v`: the register's value only, and any pattern at all while the register has
"no value", at each sample anew (R15, R90; log entry 1). -/
def State.shows (s : State) (v : Word) : Bool :=
  match s.out with
  | some r => r == v
  | none => true

end Sys2Proof.Machine
end

