-- ==== Sys2Proof/Machine/Absorb.lean ====
section
/-! DEFINITION. The operations that absorb a byte: UPDATE and START. -/

namespace Sys2Proof.Machine

/-- UPDATE b: `CRC <- bytestep(CRC, b)`, in one step; "no value" stays "no value" (`40_crc_step.md` R55). -/
def execUpdate (b : Byte) (s : State) : Host.Outcome State Fault Refusal := .next (s.absorb b)

/-- START b: the initial value first, then the byte absorbed into it, in one step; the old register is not read (R56). -/
def execStart (b : Byte) (s : State) : Host.Outcome State Fault Refusal := .next (s.loadInit.absorb b)

end Sys2Proof.Machine
end

