-- ==== Sys2Proof/Machine/Control.lean ====
section
/-! DEFINITION. The operations that absorb no byte: RESET, IDLE and INIT. None reads the register, has a flag to set or an
exception to raise. -/

namespace Sys2Proof.Machine

/-- RESET: `CRC <- 0x0000`, whatever the register held (`70_reset_and_hazards.md` R88). -/
def execReset (s : State) : Host.Outcome State Fault Refusal := .next s.loadInit

/-- IDLE: the register keeps its content, "no value" too (`40_crc_step.md` R53). -/
def execIdle (s : State) : Host.Outcome State Fault Refusal := .next s

/-- INIT: `CRC <- 0x0000`, whatever the register held (R54). -/
def execInit (s : State) : Host.Outcome State Fault Refusal := .next s.loadInit

end Sys2Proof.Machine
end

