-- ==== Sys2Proof/Syntax.lean ====
section
/-! DEFINITION. The five operations (`30_encoding.md` R38, one constructor per row of `opcode_table.json`), the input ports
that select them (R35), and the notation for writing runs down (R43 to R45). -/

namespace Sys2Proof

/-- The five operations (R38). An operation carries what it looks at and nothing else: the bits of the input word that RESET,
IDLE and INIT do not look at (R40) are gone after decoding. -/
inductive Instr
  /-- RESET: load `0x0000`, whatever the other inputs are (R88). -/
  | reset
  /-- IDLE: the register keeps its content (R53). -/
  | idle
  /-- INIT: load `0x0000` (R54). -/
  | init
  /-- UPDATE b: absorb the byte into the register (R55). -/
  | update (b : Byte)
  /-- START b: load `0x0000` first, then absorb the byte, in one step (R56). -/
  | start (b : Byte)
  deriving DecidableEq, Repr

/-- The names of the operations, without operands (R43). -/
inductive Mnemonic
  | reset | idle | init | update | start
  deriving DecidableEq, Repr

/-- The four sampled inputs (R35). The clock is the step itself, and the output `crc` is `Machine.State.out`. -/
structure InputPorts where
  /-- synchronous reset request, active high -/
  rst : Bool
  /-- load `0x0000` before anything else this step, active high -/
  init : Bool
  /-- `data` holds the next byte of the stream, active high -/
  valid : Bool
  /-- the byte to absorb, bit 0 its least significant bit -/
  data : Byte
  deriving DecidableEq, Repr

/-- One row of the decode table of R38. -/
structure OpRow where
  op : Mnemonic
  mask : InWord
  pattern : InWord
  deriving DecidableEq, Repr

/-- The pseudo-instructions (R44). -/
inductive Pseudo
  /-- `MSG b0 ... b(n-1)`: a whole message -/
  | msg (m : List Byte)
  /-- `MSGSTR "text"`: a whole message, written between the quotes as these characters, escapes not yet read -/
  | msgstr (text : List Char)
  /-- `CONT b0 ... b(n-1)`: continue the current message -/
  | cont (m : List Byte)
  /-- `NOP k`: k IDLE steps -/
  | nop (k : Nat)
  deriving DecidableEq, Repr

/-- One line of a written run (R43 to R45). -/
inductive AsmLine
  | op (i : Instr)
  | pseudo (p : Pseudo)
  /-- `EXPECT 0xNNNN` -/
  | expect (v : Word)
  /-- `EXPECT unspecified` -/
  | expectUnspecified
  deriving DecidableEq, Repr

end Sys2Proof
end

