-- ==== Sys2Proof/WellFormed.lean ====
section
/-! DEFINITION. What a number, a text or an instruction must satisfy to stand for something of the spec. The engine has no
illegal input word (R41), so the checks are about what is written down, not about what the engine accepts. -/

namespace Sys2Proof

/-- The input word is an 11-bit number (R36, R46). -/
def inputNumberOk (n : Nat) : Bool := n < 0x800

/-- The operand is one byte (R30, R43). -/
def byteNumberOk (n : Nat) : Bool := n < 0x100

/-- Every instruction is well-formed: every operand value is accepted (R25) and there is no other field. -/
def Instr.wellFormed : Instr → Bool
  | .reset => true
  | .idle => true
  | .init => true
  | .update b => byteNumberOk b.toNat
  | .start b => byteNumberOk b.toNat

/-- The text of a `MSGSTR`: 7-bit ASCII, a backslash only as one of the four escapes, no bare double quote (R44 c). -/
def textOk : List Char → Bool
  | [] => true
  | '\\' :: 'r' :: cs => textOk cs
  | '\\' :: 'n' :: cs => textOk cs
  | '\\' :: '\\' :: cs => textOk cs
  | '\\' :: '"' :: cs => textOk cs
  | c :: cs => c != '\\' && c != '"' && c.toNat < 0x80 && textOk cs

/-- A pseudo-instruction is well-formed when its text is. -/
def Pseudo.wellFormed : Pseudo → Bool
  | .msg _ => true
  | .msgstr t => textOk t
  | .cont _ => true
  | .nop _ => true

/-- A written line is well-formed when what it holds is. -/
def AsmLine.wellFormed : AsmLine → Bool
  | .op i => i.wellFormed
  | .pseudo p => p.wellFormed
  | .expect _ => true
  | .expectUnspecified => true

end Sys2Proof
end

