-- ==== Sys2Proof/Decode.lean ====
section
/-! DEFINITION. The fields of the cycle input word (`30_encoding.md` R36), the decoder (R38, total by R41), the decode table
as rows, and after them the encoder with the canonical words (R42). -/

namespace Sys2Proof

/-! ### Fields -/

/-- `rst = IN[10]` (R36). -/
def InWord.rst (w : InWord) : Bool := w.getLsbD 10

/-- `init = IN[9]` (R36). -/
def InWord.init (w : InWord) : Bool := w.getLsbD 9

/-- `valid = IN[8]` (R36). -/
def InWord.valid (w : InWord) : Bool := w.getLsbD 8

/-- `data = IN[7:0]` (R36). -/
def InWord.data (w : InWord) : Byte := w.extractLsb' 0 8

/-- The four inputs as the word shows them. -/
def InWord.ports (w : InWord) : InputPorts := ⟨w.rst, w.init, w.valid, w.data⟩

/-- `IN = {rst, init, valid, data[7:0]}` (R36). -/
def InputPorts.word (p : InputPorts) : InWord :=
  BitVec.ofBool p.rst ++ BitVec.ofBool p.init ++ BitVec.ofBool p.valid ++ p.data

/-! ### Decoding -/

/-- The operation the inputs select. `rst` overrides the rest; `init` and `valid` are independent (R38, R79). -/
def InputPorts.operation (p : InputPorts) : Instr :=
  match p.rst, p.init, p.valid with
  | true, _, _ => .reset
  | false, false, false => .idle
  | false, true, false => .init
  | false, false, true => .update p.data
  | false, true, true => .start p.data

/-- The decoder: a total function from 11-bit words to the five operations (R38, R41). -/
def decode (w : InWord) : Instr := w.ports.operation

/-- Why a number is no input word. -/
inductive DecodeError
  /-- The number needs more than the eleven input wires (R36, R46): it cannot be presented to the engine. -/
  | notElevenBits
  deriving DecidableEq, Repr

/-- The decoder over numbers: a number of eleven bits is decoded, any other is rejected by name. -/
def decodeNumber (n : Nat) : Except DecodeError Instr :=
  if inputNumberOk n then .ok (decode (BitVec.ofNat 11 n)) else .error .notElevenBits

/-- The instruction whose bits are the low `nbits` bits of `w`, numbered as `IN` is; none where it is no input word
(DESIGN CHOICE, log entry 7). -/
def decodeTableWord (nbits w : Nat) : Option Instr :=
  match decodeNumber (w % 2 ^ nbits) with
  | .ok i => some i
  | .error _ => none

/-! ### The decode table as rows -/

/-- The name of an instruction. -/
def Instr.mnemonic : Instr → Mnemonic
  | .reset => .reset
  | .idle => .idle
  | .init => .init
  | .update _ => .update
  | .start _ => .start

/-- The row of R38 that a mnemonic names, with its mask and its match. -/
def Mnemonic.row : Mnemonic → OpRow
  | .reset => ⟨.reset, 0x400, 0x400⟩
  | .idle => ⟨.idle, 0x700, 0x000⟩
  | .init => ⟨.init, 0x700, 0x200⟩
  | .update => ⟨.update, 0x700, 0x100⟩
  | .start => ⟨.start, 0x700, 0x300⟩

/-- The five rows of R38. -/
def opTable : List OpRow :=
  [Mnemonic.row .reset, Mnemonic.row .idle, Mnemonic.row .init, Mnemonic.row .update, Mnemonic.row .start]

/-- A word selects the row whose mask and match satisfy `(w & mask) = match` (R38). -/
def OpRow.selects (r : OpRow) (w : InWord) : Bool := w &&& r.mask == r.pattern

/-- How many of the 2048 words an operation has (R40). -/
def Mnemonic.count (m : Mnemonic) : Nat :=
  ((List.range 2048).filter fun n => (decode (BitVec.ofNat 11 n)).mnemonic = m).length

/-! ### Encoding -/

/-- The canonical word of an operation: the bits it does not look at are 0 (R42). -/
def encode : Instr → InWord
  | .reset => 0x400
  | .idle => 0x000
  | .init => 0x200
  | .update b => 0x100 + b.setWidth 11
  | .start b => 0x300 + b.setWidth 11

/-- The bits of `IN` an operation looks at (R40). -/
def Instr.lookedAt : Instr → InWord
  | .reset => 0x400
  | .idle => 0x700
  | .init => 0x700
  | .update _ => 0x7FF
  | .start _ => 0x7FF

end Sys2Proof
end

