-- ==== Sys2Proof/Machine/Fetch.lean ====
section
/-! DEFINITION. How the input words of a run reach the engine. The engine fetches nothing (`10_state.md` R16): the host presents
one word at each rising edge, and the list of those to come stands in the state (log entry 3). -/

namespace Sys2Proof.Machine

/-- What the host presents when its list is exhausted: left alone, the engine performs IDLE for ever (R98, R53). DEDUCED, log
entry 4. -/
def idleWord : InWord := 0x000

/-- The word on the inputs at the next rising edge. -/
def State.inputWord (s : State) : InWord := s.run.headD idleWord

/-- The operation of the next step: that word alone selects it (R36). -/
def State.nextInstr (s : State) : Instr := decode s.inputWord

/-- The edge has passed: its word is not stored (R21 b, R36). -/
def State.dropInput (s : State) : State := { s with run := s.run.tail }

/-- The host is about to present these words, and nothing after them. -/
def State.present (s : State) (ws : List InWord) : State := { s with run := ws }

/-- The number `w` on the eleven input wires at the next rising edge, in place of the word that was to come; the words after
it are as they were (log entry 7). -/
def State.placeInput (s : State) (nbits w : Nat) : State :=
  { s with run := BitVec.ofNat 11 (w % 2 ^ nbits) :: s.run.tail }

end Sys2Proof.Machine
end

