-- ==== Sys2Proof/Machine/Step.lean ====
section
/-! DEFINITION. The step of the machine: one rising edge of `clk` (`00_scope.md` R3, `40_crc_step.md` R62). -/

namespace Sys2Proof.Machine

/-- One rising edge: the word on the inputs is sampled, the operation it selects is performed, and the word is gone. -/
def step (s : State) : Host.Outcome State Fault Refusal := exec s.nextInstr s.dropInput

/-- `s` with the word `w` on the inputs at the next rising edge (log entry 7). -/
def State.withFetchWord (s : State) (nbits w : Nat) : State := s.placeInput nbits w

end Sys2Proof.Machine
end

