-- ==== Sys2Proof/Machine/Message.lean ====
section
/-! DEFINITION. The whole-message function of the document and the operations that feed a message
(`41_message_protocol.md`). -/

namespace Sys2Proof.Machine

/-- `fold(r, m)`: one byte-step per byte, first byte first, from an arbitrary register value (R63). -/
def fold (r : Word) (m : List Byte) : Word := m.foldl bytestep r

/-- `checksum(m)`: from `0x0000`, with nothing done to the final register value (R63, R52). -/
def checksum (m : List Byte) : Word := fold initValue m

/-- The canonical operations for a message (R66; the expansion of `MSG`, R44 a and b). -/
def messageOps : List Byte → List Instr
  | [] => [.init]
  | b :: m => .start b :: m.map .update

/-- The operations that continue the current message (R70; the expansion of `CONT`, R44 d). -/
def continueOps (m : List Byte) : List Instr := m.map .update

/-- The canonical words for a message (R66, R42). -/
def messageWords (m : List Byte) : List InWord := (messageOps m).map encode

/-- The canonical words that continue the current message. -/
def continueWords (m : List Byte) : List InWord := (continueOps m).map encode

end Sys2Proof.Machine
end

