-- ==== Sys2Proof/Machine/Run.lean ====
section
/-! DEFINITION. Runs: input words applied at consecutive rising edges (`00_scope.md` R11, `70_reset_and_hazards.md` R98). -/

namespace Sys2Proof.Machine

/-- The state after `k` rising edges. -/
def steps : Nat → State → Host.Outcome State Fault Refusal
  | 0, s => .next s
  | k + 1, s =>
    match step s with
    | .next t => steps k t
    | .fault r => .fault r
    | .refused r => .refused r

/-- The run of the words `ws` from `s`: as many rising edges as there are words (R11, R98). -/
def runWords (ws : List InWord) (s : State) : Host.Outcome State Fault Refusal :=
  steps ws.length (s.present ws)

end Sys2Proof.Machine
end

