-- ==== Sys2Proof/Machine/Assembler.lean ====
section
/-! DEFINITION. The spec's notation for runs (`30_encoding.md` R43 to R45): pseudo-instructions and their expansion, the
canonical words the assembler emits, the test directives, and the reading of a written line. The engine knows nothing of it. -/

namespace Sys2Proof.Machine

/-! ### Pseudo-instructions and directives over read lines -/

/-- The byte of an ASCII character (R12; PRESUMED by the spec, log entry 13). -/
def charByte (c : Char) : Byte := BitVec.ofNat 8 c.toNat

/-- The bytes of a `MSGSTR` text, its four escapes read; none where the text is ill-formed (R44 c). -/
def textBytes : List Char → Option (List Byte)
  | [] => some []
  | '\\' :: 'r' :: cs => (textBytes cs).map (0x0D :: ·)
  | '\\' :: 'n' :: cs => (textBytes cs).map (0x0A :: ·)
  | '\\' :: '\\' :: cs => (textBytes cs).map (0x5C :: ·)
  | '\\' :: '"' :: cs => (textBytes cs).map (0x22 :: ·)
  | c :: cs =>
    if c != '\\' && c != '"' && c.toNat < 0x80 then (textBytes cs).map (charByte c :: ·) else none

/-- The expansion of a pseudo-instruction (R44). -/
def expand : Pseudo → Option (List Instr)
  | .msg m => some (messageOps m)
  | .msgstr t => (textBytes t).map messageOps
  | .cont m => some (continueOps m)
  | .nop k => some (List.replicate k .idle)

/-- The canonical words of one line; a directive emits none (R43, R45). -/
def lineWords : AsmLine → Option (List InWord)
  | .op i => some [encode i]
  | .pseudo p => (expand p).map (List.map encode)
  | .expect _ => some []
  | .expectUnspecified => some []

/-- The input words of a written run. -/
def assemble : List AsmLine → Option (List InWord)
  | [] => some []
  | l :: ls => (lineWords l).bind fun ws => (assemble ls).map (ws ++ ·)

/-- Whether every `EXPECT` of a written run holds when the machine runs it from `s`. `EXPECT v` asserts that `crc` has the
specified value `v` there, so it fails in the state "no value"; `EXPECT unspecified` asserts nothing (R45, U4 i). -/
def expectsHold : State → List AsmLine → Bool
  | _, [] => true
  | s, .expect v :: ls => s.out == some v && expectsHold s ls
  | s, .expectUnspecified :: ls => expectsHold s ls
  | s, .op i :: ls =>
    match runWords [encode i] s with
    | .next t => expectsHold t ls
    | .fault _ => false
    | .refused _ => false
  | s, .pseudo p :: ls =>
    match expand p with
    | none => false
    | some is =>
      match runWords (is.map encode) s with
      | .next t => expectsHold t ls
      | .fault _ => false
      | .refused _ => false

end Sys2Proof.Machine
end

