-- ==== Sys2Proof/Machine/Trailer.lean ====
section
/-! DEFINITION. What the HOST feeds to the engine and how it reads the result (`41_message_protocol.md` R72 to R75). The engine
implements none of this (`00_scope.md` R4 d); the machine does not use this file. The byte values of the characters are those
of the spec's glossary (R12), which takes them from general knowledge (PRESUMED by the spec, log entry 13). -/

namespace Sys2Proof.Machine

/-- The character `!` that ends the covered bytes (R72). -/
def terminator : Byte := 0x21

/-- The covered message: the body followed by the one byte `!` (R72). -/
def covered (body : List Byte) : List Byte := body ++ [terminator]

/-- Digit `k` of the rendering, `c[19-4k : 16-4k]`, for `k` from 1 to 4 in sending order (R73, R28). -/
def digit (c : Word) (k : Nat) : BitVec 4 := c.extractLsb' (16 - 4 * k) 4

/-- The character of a digit: `0` to `9`, then the upper-case letters `A` to `F` (R73). -/
def hexChar (d : BitVec 4) : Byte :=
  if d.toNat < 10 then 0x30 + d.setWidth 8 else 0x41 + (d.setWidth 8 - 10)

/-- Four upper-case hexadecimal digits, zero-padded, most significant first (R73). -/
def renderDigits (c : Word) : List Byte :=
  [hexChar (digit c 1), hexChar (digit c 2), hexChar (digit c 3), hexChar (digit c 4)]

/-- The six bytes appended after the covered message: the digits, CR, LF (R73). -/
def trailerBytes (c : Word) : List Byte := renderDigits c ++ [0x0D, 0x0A]

/-- The whole buffer the host hands on: the covered message and its trailer (R72, R73). -/
def telegram (body : List Byte) : List Byte :=
  covered body ++ trailerBytes (checksum (covered body))

/-- Every byte has bit 7 clear: what the formatter feeds, and no limit of the engine (R74, R25). -/
def sevenBit (m : List Byte) : Bool := m.all fun b => !b.getLsbD 7

/-- The receiver's test (R75 a): run the engine over the bytes up to and including `!`, render the result, and compare it with
the four digits received. The `!` is the one seven bytes from the end of the buffer (DESIGN CHOICE, log entry 12). -/
def verifies (buffer : List Byte) : Bool :=
  let prefixLength := buffer.length - 6
  let received := (buffer.drop prefixLength).take 4
  (buffer.take prefixLength).getLast? == some terminator &&
    received == renderDigits (checksum (buffer.take prefixLength))

end Sys2Proof.Machine
end

