-- ==== Sys2Proof/Machine/AsmText.lean ====
section
/-! DEFINITION. Reading one written line (`30_encoding.md` R43 to R45). Where the rules say nothing of the writing (which
characters separate, the case of hexadecimal digits, how a count is written, that a semicolon in quotes opens no comment) the
reader's ways are a DESIGN CHOICE, log entry 11. -/

namespace Sys2Proof.Machine

/-! ### Tokens -/

/-- A piece of a line. -/
inductive Token
  /-- a run of characters with no blank -/
  | bare (cs : List Char)
  /-- one character in single quotes -/
  | quoted (c : Char)
  /-- the characters between double quotes, escapes not read -/
  | text (cs : List Char)
  deriving DecidableEq, Repr

/-- Where the reader stands in a line; what it has gathered is kept last character first. -/
inductive ScanMode
  | blank
  | bare (acc : List Char)
  | openQuote
  | closeQuote (c : Char)
  | text (acc : List Char) (escaped : Bool)
  /-- just after a closing quote: a blank, a comment or the end must follow -/
  | closed
  deriving DecidableEq, Repr

/-- A character that separates tokens. -/
def isBlank (c : Char) : Bool := c == ' ' || c == '\t'

/-- The tokens of a line, up to its comment; none where a quote is not closed. -/
def scan : List Char → ScanMode → Option (List Token)
  | [], .blank => some []
  | [], .closed => some []
  | [], .bare acc => some [.bare acc.reverse]
  | [], .openQuote => none
  | [], .closeQuote _ => none
  | [], .text _ _ => none
  | c :: cs, .blank =>
    if c == ';' then some []
    else if isBlank c then scan cs .blank
    else if c == '\'' then scan cs .openQuote
    else if c == '"' then scan cs (.text [] false)
    else scan cs (.bare [c])
  | c :: cs, .bare acc =>
    if c == ';' then some [.bare acc.reverse]
    else if isBlank c then (scan cs .blank).map (.bare acc.reverse :: ·)
    else scan cs (.bare (c :: acc))
  | c :: cs, .openQuote => scan cs (.closeQuote c)
  | c :: cs, .closeQuote q => if c == '\'' then (scan cs .closed).map (.quoted q :: ·) else none
  | c :: cs, .text acc escaped =>
    if escaped then scan cs (.text (c :: acc) false)
    else if c == '\\' then scan cs (.text (c :: acc) true)
    else if c == '"' then (scan cs .closed).map (.text acc.reverse :: ·)
    else scan cs (.text (c :: acc) false)
  | c :: cs, .closed =>
    if c == ';' then some [] else if isBlank c then scan cs .blank else none

/-! ### Operands -/

/-- Whether the character writes the digit `d`: the character that R73 renders it by, or, for a digit above 9, the same letter in
lower case, which ASCII puts `0x20` higher. -/
def writesDigit (c : Char) (d : Nat) : Bool :=
  let upper := (hexChar (BitVec.ofNat 4 d)).toNat
  c.toNat == upper || (9 < d && c.toNat == upper + 0x20)

/-- The digit that a character writes in the given base, of at most sixteen. -/
def digitValue (base : Nat) (c : Char) : Option Nat := (List.range base).find? (writesDigit c)

/-- The number that digits write after a number already read, the most significant first; none where one is no digit. -/
def readDigits (base : Nat) : Nat → List Char → Option Nat
  | read, [] => some read
  | read, c :: rest =>
    match digitValue base c with
    | none => none
    | some d => readDigits base (base * read + d) rest

/-- A byte operand: `0xNN`, or one printable ASCII character in single quotes (R43). -/
def readByte : Token → Option Byte
  | .bare ['0', 'x', a, b] => (readDigits 16 0 [a, b]).map (BitVec.ofNat 8)
  | .bare _ => none
  | .quoted c => if 0x20 ≤ c.toNat ∧ c.toNat ≤ 0x7E then some (charByte c) else none
  | .text _ => none

/-- Byte operands. -/
def readBytes : List Token → Option (List Byte)
  | [] => some []
  | t :: ts => (readByte t).bind fun b => (readBytes ts).map (b :: ·)

/-- A 16-bit value `0xNNNN` (R45). -/
def readValue : List Char → Option Word
  | ['0', 'x', a, b, c, d] => (readDigits 16 0 [a, b, c, d]).map (BitVec.ofNat 16)
  | _ => none

/-- A count: one decimal digit or more. -/
def readCount : List Char → Option Nat
  | [] => none
  | c :: cs => readDigits 10 0 (c :: cs)

/-! ### Lines -/

/-- A mnemonic, pseudo-instruction or directive with its operands; mnemonics are upper case (R43 to R45). -/
def readCommand (name : List Char) (args : List Token) : Option AsmLine :=
  if name = "RESET".toList then if args = [] then some (.op .reset) else none
  else if name = "IDLE".toList then if args = [] then some (.op .idle) else none
  else if name = "INIT".toList then if args = [] then some (.op .init) else none
  else if name = "UPDATE".toList then
    match args with
    | [t] => (readByte t).map fun b => .op (.update b)
    | _ => none
  else if name = "START".toList then
    match args with
    | [t] => (readByte t).map fun b => .op (.start b)
    | _ => none
  else if name = "MSG".toList then (readBytes args).map fun m => .pseudo (.msg m)
  else if name = "CONT".toList then (readBytes args).map fun m => .pseudo (.cont m)
  else if name = "MSGSTR".toList then
    match args with
    | [.text cs] => if textOk cs then some (.pseudo (.msgstr cs)) else none
    | _ => none
  else if name = "NOP".toList then
    match args with
    | [.bare cs] => (readCount cs).map fun k => .pseudo (.nop k)
    | _ => none
  else if name = "EXPECT".toList then
    match args with
    | [.bare cs] =>
      if cs = "unspecified".toList then some .expectUnspecified else (readValue cs).map .expect
    | _ => none
  else none

/-- What one written line stands for. -/
inductive LineReading
  /-- a blank line or a comment: no step -/
  | nothing
  | line (l : AsmLine)
  /-- the line is not of the notation -/
  | illFormed
  deriving DecidableEq, Repr

/-- Reads one line. -/
def readLine (cs : List Char) : LineReading :=
  match scan cs .blank with
  | some [] => .nothing
  | some (.bare name :: args) =>
    match readCommand name args with
    | some l => .line l
    | none => .illFormed
  | _ => .illFormed

end Sys2Proof.Machine
end

