-- ==== Sys2Proof/Machine/Forms.lean ====
section
/-! DEFINITION. The same arithmetic in the other shapes the spec gives it (`40_crc_step.md` R51, R57, R58, R60;
`20_memory.md` R26). None of them is used by the machine, which is defined by R47 to R49; that they agree with it is what is to
be proved of them. -/

namespace Sys2Proof.Machine

/-! ### The parallel form (R57) -/

/-- `e_i = c_i ^ d_i` (R57). -/
def parallelE (r : Word) (b : Byte) (i : Nat) : Bool := r.getLsbD i ^^ b.getLsbD i

/-- `P`, the parity of the low byte of the register XORed with the byte (R57). -/
def parallelP (r : Word) (b : Byte) : Bool :=
  parallelE r b 0 ^^ parallelE r b 1 ^^ parallelE r b 2 ^^ parallelE r b 3 ^^
  parallelE r b 4 ^^ parallelE r b 5 ^^ parallelE r b 6 ^^ parallelE r b 7

/-- The sixteen equations of R57-code: bit `n_i` of the byte-step's result. -/
def parallelBit (r : Word) (b : Byte) : Nat → Bool
  | 15 => parallelP r b
  | 14 => parallelE r b 0 ^^ parallelE r b 1 ^^ parallelE r b 2 ^^ parallelE r b 3 ^^
      parallelE r b 4 ^^ parallelE r b 5 ^^ parallelE r b 6
  | 13 => parallelE r b 6 ^^ parallelE r b 7
  | 12 => parallelE r b 5 ^^ parallelE r b 6
  | 11 => parallelE r b 4 ^^ parallelE r b 5
  | 10 => parallelE r b 3 ^^ parallelE r b 4
  | 9 => parallelE r b 2 ^^ parallelE r b 3
  | 8 => parallelE r b 1 ^^ parallelE r b 2
  | 7 => parallelE r b 0 ^^ parallelE r b 1 ^^ r.getLsbD 15
  | 6 => parallelE r b 0 ^^ r.getLsbD 14
  | 5 => r.getLsbD 13
  | 4 => r.getLsbD 12
  | 3 => r.getLsbD 11
  | 2 => r.getLsbD 10
  | 1 => r.getLsbD 9
  | 0 => r.getLsbD 8 ^^ parallelP r b
  | _ => false

/-! ### The table form (R58) -/

/-- The printed table `T` of `95_test_vectors.md` section 6, sixteen entries a row: a constant, not state (R19, R58). -/
def tableT : List Word :=
  [0x0000, 0xC0C1, 0xC181, 0x0140, 0xC301, 0x03C0, 0x0280, 0xC241, 0xC601, 0x06C0, 0x0780, 0xC741, 0x0500, 0xC5C1, 0xC481, 0x0440] ++
  [0xCC01, 0x0CC0, 0x0D80, 0xCD41, 0x0F00, 0xCFC1, 0xCE81, 0x0E40, 0x0A00, 0xCAC1, 0xCB81, 0x0B40, 0xC901, 0x09C0, 0x0880, 0xC841] ++
  [0xD801, 0x18C0, 0x1980, 0xD941, 0x1B00, 0xDBC1, 0xDA81, 0x1A40, 0x1E00, 0xDEC1, 0xDF81, 0x1F40, 0xDD01, 0x1DC0, 0x1C80, 0xDC41] ++
  [0x1400, 0xD4C1, 0xD581, 0x1540, 0xD701, 0x17C0, 0x1680, 0xD641, 0xD201, 0x12C0, 0x1380, 0xD341, 0x1100, 0xD1C1, 0xD081, 0x1040] ++
  [0xF001, 0x30C0, 0x3180, 0xF141, 0x3300, 0xF3C1, 0xF281, 0x3240, 0x3600, 0xF6C1, 0xF781, 0x3740, 0xF501, 0x35C0, 0x3480, 0xF441] ++
  [0x3C00, 0xFCC1, 0xFD81, 0x3D40, 0xFF01, 0x3FC0, 0x3E80, 0xFE41, 0xFA01, 0x3AC0, 0x3B80, 0xFB41, 0x3900, 0xF9C1, 0xF881, 0x3840] ++
  [0x2800, 0xE8C1, 0xE981, 0x2940, 0xEB01, 0x2BC0, 0x2A80, 0xEA41, 0xEE01, 0x2EC0, 0x2F80, 0xEF41, 0x2D00, 0xEDC1, 0xEC81, 0x2C40] ++
  [0xE401, 0x24C0, 0x2580, 0xE541, 0x2700, 0xE7C1, 0xE681, 0x2640, 0x2200, 0xE2C1, 0xE381, 0x2340, 0xE101, 0x21C0, 0x2080, 0xE041] ++
  [0xA001, 0x60C0, 0x6180, 0xA141, 0x6300, 0xA3C1, 0xA281, 0x6240, 0x6600, 0xA6C1, 0xA781, 0x6740, 0xA501, 0x65C0, 0x6480, 0xA441] ++
  [0x6C00, 0xACC1, 0xAD81, 0x6D40, 0xAF01, 0x6FC0, 0x6E80, 0xAE41, 0xAA01, 0x6AC0, 0x6B80, 0xAB41, 0x6900, 0xA9C1, 0xA881, 0x6840] ++
  [0x7800, 0xB8C1, 0xB981, 0x7940, 0xBB01, 0x7BC0, 0x7A80, 0xBA41, 0xBE01, 0x7EC0, 0x7F80, 0xBF41, 0x7D00, 0xBDC1, 0xBC81, 0x7C40] ++
  [0xB401, 0x74C0, 0x7580, 0xB541, 0x7700, 0xB7C1, 0xB681, 0x7640, 0x7200, 0xB2C1, 0xB381, 0x7340, 0xB101, 0x71C0, 0x7080, 0xB041] ++
  [0x5000, 0x90C1, 0x9181, 0x5140, 0x9301, 0x53C0, 0x5280, 0x9241, 0x9601, 0x56C0, 0x5780, 0x9741, 0x5500, 0x95C1, 0x9481, 0x5440] ++
  [0x9C01, 0x5CC0, 0x5D80, 0x9D41, 0x5F00, 0x9FC1, 0x9E81, 0x5E40, 0x5A00, 0x9AC1, 0x9B81, 0x5B40, 0x9901, 0x59C0, 0x5880, 0x9841] ++
  [0x8801, 0x48C0, 0x4980, 0x8941, 0x4B00, 0x8BC1, 0x8A81, 0x4A40, 0x4E00, 0x8EC1, 0x8F81, 0x4F40, 0x8D01, 0x4DC0, 0x4C80, 0x8C41] ++
  [0x4400, 0x84C1, 0x8581, 0x4540, 0x8701, 0x47C0, 0x4680, 0x8641, 0x8201, 0x42C0, 0x4380, 0x8341, 0x4100, 0x81C1, 0x8081, 0x4040]

/-- `(r >> 8) ^ T[(r ^ zext_16(b))[7:0]]` (R58). -/
def tableStep (r : Word) (b : Byte) : Word :=
  (r >>> 8) ^^^ tableT.getD ((xorin r b).extractLsb' 0 8).toNat 0x0000

/-! ### The serial form (`20_memory.md` R26) -/

/-- One bit-step that takes one bit of the byte with it. -/
def serialBit (r : Word) (d : Bool) : Word :=
  if testedBit r ^^ d then (r >>> 1) ^^^ polyR else r >>> 1

/-- The eight bits of the byte one after the other, the least significant first (R26). -/
def serialStep (r : Word) (b : Byte) : Word :=
  [b.getLsbD 0, b.getLsbD 1, b.getLsbD 2, b.getLsbD 3,
   b.getLsbD 4, b.getLsbD 5, b.getLsbD 6, b.getLsbD 7].foldl serialBit r

/-! ### The inverse of the bit-step (R60 a) -/

/-- `((n ^ 0xA001) << 1) | 1` if bit 15 of `n` is set, `n << 1` if not (R60 a). -/
def bitstepInv (n : Word) : Word :=
  if n.getLsbD 15 then ((n ^^^ polyR) <<< 1) ||| 1 else n <<< 1

/-! ### The unmasked form in a wider register (R51) -/

/-- The document's bit-step on an integer of any size. -/
def wideBitstep (r : Nat) : Nat := if r % 2 = 1 then (r / 2) ^^^ 0xA001 else r / 2

/-- `n` of them. -/
def wideBitsteps : Nat → Nat → Nat
  | 0, r => r
  | n + 1, r => wideBitsteps n (wideBitstep r)

/-- The document's body of the loop over bytes, on integers of any size. -/
def wideBytestep (r b : Nat) : Nat := wideBitsteps 8 (r ^^^ b)

/-- The document's loop on integers of any size, without the final mask. -/
def wideFold (r : Nat) (m : List Nat) : Nat := m.foldl wideBytestep r

end Sys2Proof.Machine
end

