-- ==== Sys2Proof/Safety.lean ====
section
/-! DEFINITION. The terms claims use: launch premises, what a run has fed since the last load, and the host's obligations for
the result to be the checksum it wants (`70_reset_and_hazards.md` R90 to R95). The engine checks none of them
(`60_exceptions.md` R81), so none of them is a fault. -/

namespace Sys2Proof.Machine

/-! ### What an operation does to the register -/

/-- The operation loads `0x0000` without reading the register: RESET, INIT, START (R23, R92). -/
def loads : Instr → Bool
  | .reset => true
  | .idle => false
  | .init => true
  | .update _ => false
  | .start _ => true

/-- The byte the operation absorbs, if it absorbs one: UPDATE and START do (R62). -/
def absorbedByte : Instr → Option Byte
  | .reset => none
  | .idle => none
  | .init => none
  | .update b => some b
  | .start b => some b

/-- The operation is IDLE. -/
def isIdle : Instr → Bool
  | .reset => false
  | .idle => true
  | .init => false
  | .update _ => false
  | .start _ => false

/-! ### States -/

/-- The register holds a 16-bit value, not "no value" (R90). -/
def State.known (s : State) : Bool := s.crc.isSome

/-- Launch premise (a): the state `0x0000` (R91). Premise (b) is any state at all. -/
def State.launchA (s : State) : Bool := s.crc == some 0x0000

/-! ### Messages -/

/-- The message fed since the last load, one operation later; none while nothing has been loaded (R91, R94). -/
def track : Option (List Byte) → Instr → Option (List Byte)
  | _, .reset => some []
  | m, .idle => m
  | _, .init => some []
  | m, .update b => m.map (· ++ [b])
  | _, .start b => some [b]

/-- The message a run of operations has fed since its last load; none if it loads nothing. -/
def messageOf (ops : List Instr) : Option (List Byte) := ops.foldl track none

/-- The bytes a run of operations absorbs, in order. -/
def absorbedBytes (ops : List Instr) : List Byte := ops.filterMap absorbedByte

/-- The register stands for the message `m` fed since the last load; no claim while there is none (R91). -/
def State.tracks (s : State) (m : Option (List Byte)) : Bool :=
  match m with
  | some m => s.crc == some (checksum m)
  | none => true

/-! ### The host's obligations -/

/-- The boot requirement: a load comes before, or with, the first absorption of a byte (R92). -/
def boots : List Instr → Bool
  | [] => false
  | i :: is => loads i || (isIdle i && boots is)

/-- The operations feed the one message `m`: they begin it by a load, and but for IDLEs they hold its bytes in order and
nothing else (R66, R67, R93, R94). -/
def feeds (m : List Byte) (ops : List Instr) : Bool :=
  let acts := ops.filter fun i => !isIdle i
  acts == messageOps m || acts == .init :: continueOps m || acts == .reset :: continueOps m

end Sys2Proof.Machine
end

