-- ==== Sys2Proof/Certificates/Slice0/Obligations.lean ====
section
/-! DEFINITION. The statements for the provers. Each docstring names the rule of spec/ it formalises. `State.run`, the list of
words the host is about to present, is the model's own field (log entry 3); every other field and value is the spec's. -/

open Sys2Proof
open Sys2Proof.Machine

/-! ### The five operations -/

/-- R88. Every word with `rst = 1` is RESET; RESET leaves `0x0000` from every state, "no value" among them, whatever the other
bits are; it has INIT's effect; the rule's example. -/
def Obligations.ResetLoadsZero : Prop :=
  encode .reset = 0x400 ∧
  (∀ s : State, exec .reset s = .next { crc := some 0x0000, run := s.run }) ∧
  (∀ (w : InWord) (ws : List InWord) (c : Option Word), w.rst = true →
    decode w = .reset ∧ step { crc := c, run := w :: ws } = .next { crc := some 0x0000, run := ws }) ∧
  (∀ s : State, exec .reset s = exec .init s) ∧
  step { crc := some 0x3C9D, run := [0x400] } = .next { crc := some 0x0000, run := [] } ∧
  step { crc := some 0x3C9D, run := [0x7FF] } = .next { crc := some 0x0000, run := [] }

/-- R53 and R69. Every word with control bits 000 is IDLE; IDLE leaves the whole state as it is, "no value" too; IDLE steps
inserted or removed anywhere in a run change no state that comes later; the rule's example. -/
def Obligations.IdleIsInvisible : Prop :=
  encode .idle = 0x000 ∧
  (∀ s : State, exec .idle s = .next s) ∧
  (∀ w : InWord, w.extractLsb' 8 3 = 0b000 → decode w = .idle) ∧
  (∀ (before idles after : List InWord) (s : State), (∀ w ∈ idles, decode w = .idle) →
    runWords (before ++ idles ++ after) s = runWords (before ++ after) s) ∧
  step { crc := some 0xD4C1, run := [0x000] } = .next { crc := some 0xD4C1, run := [] } ∧
  step { crc := some 0xD4C1, run := [0x0FF] } = .next { crc := some 0xD4C1, run := [] }

/-- R54. Every word with control bits 010 is INIT; INIT leaves `0x0000` from every state; that is the checksum of the empty
message; a second INIT changes nothing; the rule's example. -/
def Obligations.InitLoadsZero : Prop :=
  encode .init = 0x200 ∧
  (∀ s : State, exec .init s = .next { crc := some 0x0000, run := s.run }) ∧
  (∀ w : InWord, w.extractLsb' 8 3 = 0b010 → decode w = .init) ∧
  (∀ s : State, exec .init s = .next { crc := some (checksum []), run := s.run }) ∧
  (∀ (w v : InWord) (s : State), decode w = .init → decode v = .init →
    runWords [w, v] s = runWords [w] s) ∧
  step { crc := some 0xBB3D, run := [0x200] } = .next { crc := some 0x0000, run := [] }

/-- R55. Every word with control bits 001 is UPDATE of its data; UPDATE b takes a register value r to `bytestep(r, b)` and
leaves "no value" as it is; the corner cases (a) to (d) and the examples. -/
def Obligations.UpdateAbsorbsByte : Prop :=
  (∀ (b : Byte) (r : Word) (ws : List InWord),
    exec (.update b) { crc := some r, run := ws } = .next { crc := some (bytestep r b), run := ws }) ∧
  (∀ (b : Byte) (ws : List InWord),
    exec (.update b) { crc := none, run := ws } = .next { crc := none, run := ws }) ∧
  (∀ w : InWord, w.extractLsb' 8 3 = 0b001 → decode w = .update (w.extractLsb' 0 8)) ∧
  (∀ b : Byte, (encode (.update b)).toNat = 0x100 + b.toNat) ∧
  bytestep 0x0000 0x00 = 0x0000 ∧
  (∀ r : Word, bytestep r (r.extractLsb' 0 8) = (0x00 : Byte) ++ r.extractLsb' 8 8) ∧
  bytestep 0xBB3D 0x3D = 0x00BB ∧
  bytestep 0x00FF 0xFF = 0x0000 ∧
  (∃ (b : Byte) (r : Word), bytestep (bytestep r b) b ≠ bytestep r b) ∧
  step { crc := some 0xD4C1, run := [0x132] } = .next { crc := some 0x4594, run := [] }

/-- R56. Every word with control bits 011 is START of its data; START b leaves `bytestep(0x0000, b)` from every state, "no
value" among them; that is INIT and then UPDATE b; `START 0x00` leaves `0x0000`; START b leaves the table's entry; the
example. -/
def Obligations.StartLoadsThenAbsorbs : Prop :=
  (∀ (b : Byte) (s : State),
    exec (.start b) s = .next { crc := some (bytestep 0x0000 b), run := s.run }) ∧
  (∀ w : InWord, w.extractLsb' 8 3 = 0b011 → decode w = .start (w.extractLsb' 0 8)) ∧
  (∀ b : Byte, (encode (.start b)).toNat = 0x300 + b.toNat) ∧
  (∀ (b : Byte) (s : State),
    runWords [encode .init, encode (.update b)] s = runWords [encode (.start b)] s) ∧
  (∀ s : State, exec (.start 0x00) s = .next { crc := some 0x0000, run := s.run }) ∧
  (∀ (b : Byte) (s : State),
    exec (.start b) s = .next { crc := some (tableT.getD b.toNat 0x0000), run := s.run }) ∧
  (∀ c : Option Word,
    step { crc := c, run := [0x331] } = .next { crc := some 0xD4C1, run := [] })

/-- The frame of every operation (R23 "No operation writes part of the register", R33): when exec answers a next state, the
words still to come are as they were, IDLE leaves the register as it was, an operation that loads leaves a value that does not
depend on the old register, and UPDATE leaves a value exactly when there was one. There is nothing else in State. -/
def Obligations.OperationFrame : Prop :=
  ∀ (i : Instr) (s t : State), exec i s = .next t →
    t.run = s.run ∧
    (i = .idle → t.crc = s.crc) ∧
    (loads i = true → ∀ s' t' : State, exec i s' = .next t' → t'.crc = t.crc) ∧
    (loads i = false → t.crc.isSome = s.crc.isSome)

/-- R23. RESET, IDLE, INIT and START: the new value does not depend on the old one but for IDLE, which keeps it; UPDATE reads the
register, and two different contents never give the same result. -/
def Obligations.RegisterAccess : Prop :=
  (∀ (i : Instr) (s s' : State), loads i = true → s.run = s'.run → exec i s = exec i s') ∧
  (∀ s : State, exec .idle s = .next s) ∧
  (∀ (b : Byte) (s s' : State), s.run = s'.run → exec (.update b) s = exec (.update b) s' → s = s')

/-! ### The step -/

/-- A step runs the decoded instruction (R36 "that word alone selects the operation of that step"): when the next word of the
run decodes to `i`, the step is `exec i` with that word gone. When the run is exhausted the step is IDLE (log entry 4). -/
def Obligations.StepRunsDecodedWord : Prop :=
  (∀ (s : State) (w : InWord) (ws : List InWord) (i : Instr), s.run = w :: ws → decode w = i →
    step s = exec i { s with run := ws }) ∧
  (∀ s : State, s.run = [] → step s = exec .idle s)

/-- The placed word is the one that runs (log entry 7): whatever instruction the decoder reads from a number, that instruction
is the one the next step runs when the number is placed on the inputs. -/
def Obligations.PlacedWordRunsNext : Prop :=
  ∀ (s : State) (nbits w : Nat) (i : Instr), decodeTableWord nbits w = some i →
    step (s.withFetchWord nbits w) = exec i { s with run := s.run.tail }

/-- R62-code, transcribed: the next state for every register content and every input word. -/
def Obligations.StepFollowsPseudocode : Prop :=
  ∀ (c : Option Word) (w : InWord) (ws : List InWord),
    step { crc := c, run := w :: ws } = .next
      { crc :=
          if w.getLsbD 10 = true then some 0x0000
          else if w.getLsbD 9 = false ∧ w.getLsbD 8 = false then c
          else if w.getLsbD 9 = true ∧ w.getLsbD 8 = false then some 0x0000
          else if w.getLsbD 9 = false ∧ w.getLsbD 8 = true then
            c.map fun r => bytestep r (w.extractLsb' 0 8)
          else some (bytestep 0x0000 (w.extractLsb' 0 8))
        run := ws }

/-- R79. The order of precedence within one edge: `rst` first; then `init` takes the register as `0x0000` for the rest of the
step; then `valid` absorbs the byte into whatever the register is taken to be. -/
def Obligations.PriorityOfInputs : Prop :=
  ∀ (p : InputPorts) (c : Option Word) (ws : List InWord),
    let taken := if p.init = true then some 0x0000 else c
    step { crc := c, run := p.word :: ws } = .next
      { crc := if p.rst = true then some 0x0000
               else if p.valid = true then taken.map fun r => bytestep r p.data
               else taken
        run := ws }

/-- R76. Every step, and so every run, ends in a next state: no fault and no refusal, from any state and with any words. -/
def Obligations.NoStepEverStops : Prop :=
  (∀ (i : Instr) (s : State), ∃ t, exec i s = .next t) ∧
  (∀ s : State, ∃ t, step s = .next t) ∧
  (∀ (k : Nat) (s : State), ∃ t, steps k s = .next t)

/-- R33. Operations take effect in the order of the edges: a run is its parts one after the other, and the register after k
edges is that of the run of the first k words, whatever words come later. -/
def Obligations.RunsCompose : Prop :=
  (∀ (xs ys : List InWord) (s t : State), runWords xs s = .next t →
    runWords (xs ++ ys) s = runWords ys t) ∧
  (∀ (ws : List InWord) (k : Nat) (s : State), k ≤ ws.length →
    ∃ c, steps k (s.present ws) = .next { crc := c, run := ws.drop k } ∧
      runWords (ws.take k) s = .next { crc := c, run := [] })

/-! ### Encoding -/

/-- Decode and encode agree (R38, R40, R42): decoding the canonical word of an instruction gives it back, as a word and as the
number of the opcode table; encoding what a word decodes to gives that word with the bits not looked at written as 0; and those
bits do not matter to the decoder. -/
def Obligations.DecodeEncodeAgree : Prop :=
  (∀ i : Instr, i.wellFormed = true →
    decode (encode i) = i ∧ decodeTableWord 16 (encode i).toNat = some i) ∧
  (∀ w : InWord, (decode w).wellFormed = true ∧ encode (decode w) = w &&& (decode w).lookedAt) ∧
  (∀ w v : InWord, w &&& (decode w).lookedAt = v &&& (decode w).lookedAt → decode v = decode w)

/-- R36. The four inputs and the 11-bit word determine each other, and the word is the number the rule gives. -/
def Obligations.InputWordIsItsPorts : Prop :=
  (∀ p : InputPorts, p.word.ports = p ∧
    p.word.toNat = p.rst.toNat * 0x400 + p.init.toNat * 0x200 + p.valid.toNat * 0x100 + p.data.toNat) ∧
  (∀ w : InWord, w.ports.word = w)

/-- R38 ("exactly one row matches every 11-bit word") and R41 (all 2048 values decode). The rows of the table that select a
word are exactly one, and it is the row of the operation the decoder reads. -/
def Obligations.ExactlyOneRowMatches : Prop :=
  ∀ w : InWord, opTable.filter (fun r => r.selects w) = [(decode w).mnemonic.row]

/-- R40. How many words each operation has, and that words of RESET, of IDLE and of INIT behave alike while the words of UPDATE
and of START all mean something different. -/
def Obligations.WordsPerOperation : Prop :=
  Mnemonic.count .reset = 1024 ∧ Mnemonic.count .idle = 256 ∧ Mnemonic.count .init = 256 ∧
  Mnemonic.count .update = 256 ∧ Mnemonic.count .start = 256 ∧
  (∀ w v : InWord, w.rst = true → v.rst = true → decode w = decode v) ∧
  (∀ w v : InWord, w.valid = false → v.valid = false → w.rst = v.rst → w.init = v.init →
    decode w = decode v) ∧
  (∀ w v : InWord, w.rst = false → w.valid = true → decode w = decode v → w = v)

/-- Words written out from R38 and R42 (vectors E1 to E11 of `95_test_vectors.md`) decode to what they stand for. -/
def Obligations.WrittenWordsDecode : Prop :=
  decode 0b00000000000 = .idle ∧ decode 0b00011111111 = .idle ∧
  decode 0b01000000000 = .init ∧ decode 0b01010100101 = .init ∧
  decode 0b00100110010 = .update 0x32 ∧ decode 0b01100110001 = .start 0x31 ∧
  decode 0b10000000000 = .reset ∧ decode 0b11111111111 = .reset ∧
  decode 0b10100110001 = .reset ∧ decode 0b11000000000 = .reset

/-! ### Arithmetic -/

/-- R47. The bit-step, in words of the whole register, with the rule's examples. -/
def Obligations.BitstepTestsThenShifts : Prop :=
  (∀ r : Word, r.getLsbD 0 = true → bitstep r = (r >>> 1) ^^^ 0xA001) ∧
  (∀ r : Word, r.getLsbD 0 = false → bitstep r = r >>> 1) ∧
  bitstep 0x0000 = 0x0000 ∧ bitstep 0x0001 = 0xA001 ∧ bitstep 0x0002 = 0x0001 ∧
  bitstep 0x0003 = 0xA000 ∧ bitstep 0x8000 = 0x4000 ∧ bitstep 0xA001 = 0xF001 ∧
  bitstep 0xFFFF = 0xDFFE

/-- R48 and R39. The XOR-in bit by bit: the byte meets the low 8 bits, the high 8 stay; with the rule's examples. -/
def Obligations.XorinMeetsLowByte : Prop :=
  (∀ (r : Word) (b : Byte), xorin r b = r ^^^ ((0x00 : Byte) ++ b)) ∧
  (∀ (r : Word) (b : Byte) (i : Nat), i < 8 → (xorin r b).getLsbD i = (r.getLsbD i ^^ b.getLsbD i)) ∧
  (∀ (r : Word) (b : Byte) (i : Nat), 8 ≤ i → (xorin r b).getLsbD i = r.getLsbD i) ∧
  xorin 0x0000 0x31 = 0x0031 ∧ xorin 0xFFFF 0xFF = 0xFF00 ∧ xorin 0xBB3D 0x3D = 0xBB00

/-- R49. The byte-step is the XOR-in and then exactly eight bit-steps, with the rule's worked example. -/
def Obligations.BytestepIsEightBitsteps : Prop :=
  (∀ (r : Word) (b : Byte), bytestep r b =
    bitstep (bitstep (bitstep (bitstep (bitstep (bitstep (bitstep (bitstep (xorin r b))))))))) ∧
  (List.range 9).map (fun k => bitsteps k (xorin 0x0000 0x31)) =
    [0x0031, 0xA019, 0xF00D, 0xD807, 0xCC02, 0x6601, 0x9301, 0xE981, 0xD4C1] ∧
  (List.range 8).map (fun k => testedBit (bitsteps k (xorin 0x0000 0x31))) =
    [true, true, true, true, false, true, true, true] ∧
  bytestep 0x0000 0x31 = 0xD4C1

/-- R50 and R61. The constant's set bits are 15, 13 and 0, and it is `0x8005` read backwards. -/
def Obligations.ConstantBits : Prop :=
  (∀ i : Nat, polyR.getLsbD i = true ↔ i = 15 ∨ i = 13 ∨ i = 0) ∧
  polyR = BitVec.reverse (0x8005 : Word)

/-- R26. The bits of a byte are taken least significant first: absorbing the byte at once is absorbing its bits one after the
other, bit 0 first. -/
def Obligations.LeastSignificantBitFirst : Prop :=
  ∀ (r : Word) (b : Byte), bytestep r b = serialStep r b

/-- R57. The sixteen parallel equations hold of every register value and every byte. -/
def Obligations.ParallelEquations : Prop :=
  ∀ (r : Word) (b : Byte) (i : Nat), i < 16 → (bytestep r b).getLsbD i = parallelBit r b i

/-- R58. The printed table holds `bytestep(0x0000, i)` at each of its 256 places, and the table form is the byte-step for every
register value and every byte. -/
def Obligations.TableForm : Prop :=
  tableT.length = 256 ∧
  (∀ b : Byte, tableT[b.toNat]? = some (bytestep 0x0000 b)) ∧
  (∀ (r : Word) (b : Byte), bytestep r b = tableStep r b)

/-- R59. Linearity over XOR: of the bit-step, of the byte-step, and of the checksum of messages of equal length. -/
def Obligations.LinearOverXor : Prop :=
  (∀ r q : Word, bitstep (r ^^^ q) = bitstep r ^^^ bitstep q) ∧
  (∀ (r q : Word) (b d : Byte), bytestep (r ^^^ q) (b ^^^ d) = bytestep r b ^^^ bytestep q d) ∧
  (∀ (r : Word) (b : Byte), bytestep r b = bytestep (xorin r b) 0x00) ∧
  (∀ (r : Word) (b : Byte), bytestep r b = bytestep r 0x00 ^^^ bytestep 0x0000 b) ∧
  (∀ m n : List Byte, m.length = n.length →
    checksum (List.zipWith (· ^^^ ·) m n) = checksum m ^^^ checksum n)

/-- R60 (a), (c) and all of (b) but its first clause. (a) The bit-step is a bijection with the inverse the rule gives, bit 15 of its
result says whether the constant was XORed in, and the byte-step of each fixed byte is a bijection. (b) Messages of zero bytes have
checksum `0x0000`; zero bytes before a message do not change its checksum, and after it they do, as in the rule's example. (c) The
orbit of `0x0001` returns after 32767 bit-steps. -/
def Obligations.BijectionAndZeroBytes : Prop :=
  (∀ r : Word, bitstepInv (bitstep r) = r ∧ bitstep (bitstepInv r) = r) ∧
  (∀ r : Word, (bitstep r).getLsbD 15 = r.getLsbD 0) ∧
  (∀ b : Byte, (∀ r q : Word, bytestep r b = bytestep q b → r = q) ∧ ∀ v : Word, ∃ r, bytestep r b = v) ∧
  bytestep 0x0000 0x00 = 0x0000 ∧
  (∀ k : Nat, checksum (List.replicate k 0x00) = 0x0000) ∧
  (∀ (k : Nat) (m : List Byte), checksum (List.replicate k 0x00 ++ m) = checksum m) ∧
  checksum [0x00, 0x31] = 0xD4C1 ∧ checksum [0x31] = 0xD4C1 ∧ checksum [0x31, 0x00] = 0x9015 ∧
  bitsteps 32767 0x0001 = 0x0001

/-- The fixed points of the bit-step of R47. There are two, `0x0000` and `0xC001`. The first clause of R60 (b) says that `0x0000` is
the only one; R47 has it otherwise, and R47 is the definition (`91_not_in_source.md` N11; log entry 14). -/
def Obligations.FixedPointsOfBitstep : Prop :=
  ∀ r : Word, bitstep r = r ↔ r = 0x0000 ∨ r = 0xC001

/-- R51. "masked to 16 bits" is the identity: the same loop in a register of any width, never masked, stays below `0x10000` and
gives the same values, from any register value below `0x10000` and over any bytes. -/
def Obligations.MaskIsIdentity : Prop :=
  ∀ (r : Word) (m : List Byte),
    wideFold r.toNat (m.map BitVec.toNat) = (fold r m).toNat ∧
    wideFold r.toNat (m.map BitVec.toNat) % 0x10000 = wideFold r.toNat (m.map BitVec.toNat)

/-- The step of a CRC detects a changed byte (from R60 a and the pairwise distinct entries of the table of R58): two messages
that differ in exactly one byte have different checksums. -/
def Obligations.SingleByteChangeDetected : Prop :=
  ∀ (before after : List Byte) (b d : Byte), b ≠ d →
    checksum (before ++ b :: after) ≠ checksum (before ++ d :: after)

/-! ### Messages -/

/-- R63 and R64. The checksum starts from `0x0000`, absorbs first byte first and is the final register value; that of the empty
message is `0x0000`; the document's own example with the register after each byte. -/
def Obligations.ChecksumOfMessage : Prop :=
  checksum [] = 0x0000 ∧
  (∀ (r : Word) (b : Byte) (m : List Byte), fold r (b :: m) = fold (bytestep r b) m) ∧
  (∀ r : Word, fold r [] = r) ∧
  (∀ m : List Byte, checksum m = fold 0x0000 m) ∧
  (List.range 10).map (fun k => checksum ([0x31, 0x32, 0x33, 0x34, 0x35, 0x36, 0x37, 0x38, 0x39].take k)) =
    [0x0000, 0xD4C1, 0x4594, 0xBA04, 0x14BA, 0xA455, 0x29E4, 0x9D68, 0x3C9D, 0xBB3D]

/-- R27. Bytes are absorbed in the order of the sequence, at the earlier clock edge first, and the order matters. -/
def Obligations.ByteOrderMatters : Prop :=
  (∀ (b : Byte) (m : List Byte) (s : State),
    runWords (messageWords (m ++ [b])) s = runWords (messageWords m ++ continueWords [b]) s) ∧
  checksum [0x01, 0x02] = 0x5180 ∧ checksum [0x02, 0x01] = 0xA0C0

/-- R68. Adequacy: from every state, "no value" among them, and for every byte sequence, the words of the canonical run end in
the state whose register is the checksum of the sequence. -/
def Obligations.CanonicalRunComputesChecksum : Prop :=
  ∀ (s : State) (m : List Byte),
    runWords (messageWords m) s = .next { crc := some (checksum m), run := [] }

/-- R66. The canonical run takes one step a byte (one for the empty message); after its last edge `crc` shows the checksum, and
still does after any number of IDLEs. -/
def Obligations.CanonicalRunHoldsResult : Prop :=
  messageOps [] = [.init] ∧
  (∀ (b : Byte) (m : List Byte), messageOps (b :: m) = .start b :: m.map .update) ∧
  (∀ m : List Byte, (messageWords m).length = max 1 m.length) ∧
  (∀ (s : State) (m : List Byte) (idles : List InWord), (∀ w ∈ idles, decode w = .idle) →
    ∃ t, runWords (messageWords m ++ idles) s = .next t ∧ t.out = some (checksum m))

/-- R95. Sampled before the last byte, `crc` shows the checksum of the prefix absorbed so far. -/
def Obligations.PrefixShownWhileFeeding : Prop :=
  ∀ (s : State) (m : List Byte) (k : Nat), 1 ≤ k → k ≤ m.length →
    ∃ t, steps k (s.present (messageWords m)) = .next t ∧ t.out = some (checksum (m.take k)) ∧
      t.run = (messageWords m).drop k

/-- R67. Any run that ends by feeding the one message `m`, begun by START, INIT or RESET, with IDLEs anywhere and after any other
words, leaves the checksum of `m`. -/
def Obligations.EquivalentRuns : Prop :=
  ∀ (s : State) (m : List Byte) (before ws : List InWord), feeds m (ws.map decode) = true →
    runWords (before ++ ws) s = .next { crc := some (checksum m), run := [] }

/-- R70, and R94's consequence. A message fed in pieces, with IDLEs between them, is the message; and a message begun with UPDATE
continues from whatever the register holds, with the rule's example. -/
def Obligations.ContinuationWithoutLoad : Prop :=
  (∀ (r : Word) (m n : List Byte), fold r (m ++ n) = fold (fold r m) n) ∧
  (∀ m n : List Byte, checksum (m ++ n) = fold (checksum m) n) ∧
  (∀ (s : State) (m n : List Byte) (idles : List InWord), (∀ w ∈ idles, decode w = .idle) →
    runWords (messageWords m ++ idles ++ continueWords n) s =
      .next { crc := some (checksum (m ++ n)), run := [] }) ∧
  (∀ (r : Word) (ws : List InWord) (n : List Byte),
    runWords (continueWords n) { crc := some r, run := ws } = .next { crc := some (fold r n), run := [] }) ∧
  checksum [0x31, 0x32, 0x33, 0x34, 0x35] = 0xA455 ∧
  fold 0xA455 [0x36, 0x37, 0x38, 0x39] = 0xBB3D ∧
  checksum [0x36, 0x37, 0x38, 0x39] = 0x946D

/-- R75 (b). Absorbing the checksum of a message after it, low byte first, leaves `0x0000`, whatever the message; in the other
order it need not. -/
def Obligations.ResidueIsZero : Prop :=
  (∀ m : List Byte, checksum (m ++ [(checksum m).extractLsb' 0 8, (checksum m).extractLsb' 8 8]) = 0x0000) ∧
  checksum [0x31, 0x32, 0x33, 0x34, 0x35, 0x36, 0x37, 0x38, 0x39, 0xBB, 0x3D] = 0xC2E3

/-- The message-level account of every run (R62, R63, R70, R94, R98): after any words, from any state, the register is the checksum
of the bytes absorbed since the last load; if nothing was loaded, it is the old content with every byte absorbed into it, and "no
value" if it was that. -/
def Obligations.EveryRunIsItsMessage : Prop :=
  ∀ (ws : List InWord) (s : State),
    runWords ws s = .next
      { crc := match messageOf (ws.map decode) with
          | some m => some (checksum m)
          | none => s.crc.map fun r => fold r (absorbedBytes (ws.map decode))
        run := [] }

/-- An invariant that every step keeps (R62, R63): if the register stands for the message fed since the last load, then after any
step it stands for that message as the step's operation changes it. -/
def Obligations.StepKeepsTracking : Prop :=
  ∀ (s t : State) (m : Option (List Byte)), s.tracks m = true → step s = .next t →
    t.tracks (track m s.nextInstr) = true

/-- The same invariant where runs start: after reset, read as in log entry 2 (DEDUCED), the register stands for the empty message, and
at power-on there is no claim (R22, R91). -/
def Obligations.TrackingHoldsAtStart : Prop :=
  State.reset.tracks (some []) = true ∧ State.powerOn.tracks none = true

/-! ### Reset, power-on and host obligations -/

/-- R22's table: what the register holds at power-on and after a RESET, an INIT and a START step. That the reset state is the state
after a RESET step, so that `State.reset` holds `0x0000`, is the model's reading (DEDUCED, log entry 2). -/
def Obligations.ResetValues : Prop :=
  State.powerOn.crc = none ∧ State.reset.crc = some 0x0000 ∧
  (∀ s : State, ∃ t, exec .reset s = .next t ∧ t.crc = some 0x0000) ∧
  (∀ s : State, ∃ t, exec .init s = .next t ∧ t.crc = some 0x0000) ∧
  (∀ (b : Byte) (s : State), ∃ t, exec (.start b) s = .next t ∧ t.crc = some (bytestep 0x0000 b))

/-- R89. One edge with `rst = 1` is a complete reset and more of them change nothing; the first edge after them performs what its
word selects, from `0x0000`. -/
def Obligations.HeldReset : Prop :=
  ∀ (resets : List InWord) (s : State), resets ≠ [] → (∀ w ∈ resets, w.rst = true) →
    runWords resets s = .next { crc := some 0x0000, run := [] } ∧
    ∀ w : InWord, runWords (resets ++ [w]) s = runWords [w] { crc := some 0x0000, run := [] }

/-- R90. From power-on the register has "no value" exactly as long as no RESET, INIT or START has been performed, and while it has
none any pattern may be seen on `crc`. -/
def Obligations.NoValueUntilFirstLoad : Prop :=
  ∀ ws : List InWord, ∃ t, runWords ws State.powerOn = .next t ∧
    (t.crc = none ↔ ∀ w ∈ ws, loads (decode w) = false) ∧
    (t.crc = none → ∀ v : Word, t.shows v = true)

/-- Knowledge of the register is never lost, and comes by a load only (R53 to R56, R62, R88). -/
def Obligations.KnownStaysKnown : Prop :=
  ∀ s t : State, step s = .next t → t.known = (s.known || loads s.nextInstr)

/-- R91 (b) and R65. After a run that contains a RESET, an INIT or a START, nothing of the state it started from is left: two
starts, of whatever content, end alike. -/
def Obligations.LoadForgetsThePast : Prop :=
  ∀ (ws : List InWord) (s s' : State), (∃ w ∈ ws, loads (decode w) = true) →
    runWords ws s = runWords ws s'

/-- R92 and R93. When a load comes before, or with, the first absorption of a byte, and there is no other load, the run leaves the
checksum of all the bytes it absorbs, from any state. -/
def Obligations.FirstMessageAfterBoot : Prop :=
  ∀ (ws : List InWord) (s : State), boots (ws.map decode) = true →
    ((ws.map decode).filter loads).length = 1 →
    runWords ws s = .next { crc := some (checksum (absorbedBytes (ws.map decode))), run := [] }

/-- R15. The output shows the register: its value bit for bit and nothing else, and while it has "no value" any pattern. -/
def Obligations.OutputShowsRegister : Prop :=
  (∀ s : State, s.out = s.crc) ∧
  (∀ (r v : Word) (ws : List InWord),
    State.shows { crc := some r, run := ws } v = true ↔ ∀ i : Nat, i < 16 → v.getLsbD i = r.getLsbD i) ∧
  (∀ (v : Word) (ws : List InWord), State.shows { crc := none, run := ws } v = true)

/-- R14. Every 16-bit value is the checksum of exactly one two-byte message, and the machine reaches every value from `0x0000`. -/
def Obligations.EveryValueReachable : Prop :=
  (∀ v : Word, ∃ b d : Byte, checksum [b, d] = v ∧ ∀ b' d' : Byte, checksum [b', d'] = v → b' = b ∧ d' = d) ∧
  (∀ v : Word, ∃ ws : List InWord, ∀ pending : List InWord,
    runWords ws { crc := some 0x0000, run := pending } = .next { crc := some v, run := [] })

/-- R31. (b) UPDATE twice absorbs twice, with the rule's example; (c) INIT, RESET, IDLE and START at two edges do what they do at
one. -/
def Obligations.Idempotency : Prop :=
  (∀ (b : Byte) (r : Word) (w : InWord) (ws : List InWord), decode w = .update b →
    runWords [w, w] { crc := some r, run := ws } = .next { crc := some (bytestep (bytestep r b) b), run := [] }) ∧
  bytestep 0x0000 0x31 = 0xD4C1 ∧ bytestep 0xD4C1 0x31 = 0x44D4 ∧
  (∀ (w : InWord) (s : State), (∀ b : Byte, decode w ≠ .update b) →
    runWords [w, w] s = runWords [w] s)

/-! ### The notation and the host -/

/-- R44. The expansions of the pseudo-instructions, and that after `MSG` or `MSGSTR` `crc` shows the checksum of the message. -/
def Obligations.PseudoExpansions : Prop :=
  (∀ (b : Byte) (m : List Byte), expand (.msg (b :: m)) = some (.start b :: m.map .update)) ∧
  expand (.msg []) = some [.init] ∧
  (∀ m : List Byte, expand (.cont m) = some (m.map .update)) ∧
  (∀ k : Nat, expand (.nop k) = some (List.replicate k .idle)) ∧
  textBytes ['\\', 'r', '\\', 'n', '\\', '\\', '\\', '"'] = some [0x0D, 0x0A, 0x5C, 0x22] ∧
  (∀ text : List Char, (∀ c ∈ text, c.toNat < 0x80 ∧ c ≠ '\\' ∧ c ≠ '"') →
    textBytes text = some (text.map fun c => BitVec.ofNat 8 c.toNat)) ∧
  (∀ (text : List Char) (m : List Byte), textBytes text = some m →
    expand (.msgstr text) = expand (.msg m)) ∧
  (∀ (m : List Byte) (s : State), ∃ ws t, lineWords (.pseudo (.msg m)) = some ws ∧
    runWords ws s = .next t ∧ t.out = some (checksum m))

/-- R43 and R42. The operations that take no operand are read from their mnemonics; `UPDATE` and `START` are read with every byte,
written as `0x` and two digits or as one printable ASCII character in single quotes (the codes of ASCII: log entry 13); the word of an
operation is the canonical one.
DESIGN CHOICE, log entry 11, and not the rule's: that hexadecimal digits may be of either case, that a blank and a comment may
follow an operation, that a line of blanks or of a comment alone is no step, and that a semicolon in quotes opens no comment. -/
def Obligations.OperandsAreRead : Prop :=
  readLine "RESET".toList = .line (.op .reset) ∧ readLine "IDLE".toList = .line (.op .idle) ∧
  readLine "INIT".toList = .line (.op .init) ∧
  (∀ (d e : Nat) (a b : Char),
    ("0123456789ABCDEF".toList[d]? = some a ∨ "0123456789abcdef".toList[d]? = some a) →
    ("0123456789ABCDEF".toList[e]? = some b ∨ "0123456789abcdef".toList[e]? = some b) →
    readByte (.bare ['0', 'x', a, b]) = some (BitVec.ofNat 8 (16 * d + e)) ∧
    readLine ("UPDATE 0x".toList ++ [a, b]) = .line (.op (.update (BitVec.ofNat 8 (16 * d + e)))) ∧
    readLine ("START 0x".toList ++ [a, b]) = .line (.op (.start (BitVec.ofNat 8 (16 * d + e))))) ∧
  (∀ c : Char, 0x20 ≤ c.toNat → c.toNat ≤ 0x7E →
    readByte (.quoted c) = some (BitVec.ofNat 8 c.toNat) ∧
    readLine ("UPDATE '".toList ++ [c, '\'']) = .line (.op (.update (BitVec.ofNat 8 c.toNat))) ∧
    readLine ("START '".toList ++ [c, '\'']) = .line (.op (.start (BitVec.ofNat 8 c.toNat)))) ∧
  (∀ comment : List Char, readLine ("IDLE ;".toList ++ comment) = .line (.op .idle) ∧
    readLine (';' :: comment) = .nothing) ∧
  readLine [] = .nothing ∧ readLine "  ".toList = .nothing ∧
  (∀ i : Instr, lineWords (.op i) = some [encode i])

/-- R45. An `EXPECT` emits no word, and holds exactly when every pattern that sampling `crc` may show there is the value it names;
`EXPECT unspecified` asserts nothing. -/
def Obligations.ExpectationsAssert : Prop :=
  (∀ v : Word, lineWords (.expect v) = some []) ∧ lineWords .expectUnspecified = some [] ∧
  (∀ (s : State) (v : Word), expectsHold s [.expect v] = true ↔ ∀ x : Word, s.shows x = true → x = v) ∧
  (∀ (s : State) (l : AsmLine) (ls : List AsmLine), (l = .expectUnspecified ∨ ∃ v, l = .expect v) →
    expectsHold s (l :: ls) = (expectsHold s [l] && expectsHold s ls)) ∧
  (∀ s : State, expectsHold s [.expectUnspecified] = true)

/-- R73. The rendering: exactly four digits, digit k that of bits `19-4k` to `16-4k`; a digit below 10 is a character from `0` to
`9`, any other a letter from `A` to `F`; the digits tell any two values apart; then CR and LF; with examples of the rule. -/
def Obligations.RenderedDigits : Prop :=
  (∀ c : Word, (renderDigits c).length = 4) ∧
  (∀ (c : Word) (k : Nat), 1 ≤ k → k ≤ 4 →
    (renderDigits c)[k - 1]? = some (hexChar (c.extractLsb' (16 - 4 * k) 4))) ∧
  (∀ d : BitVec 4, d.toNat < 10 → (hexChar d).toNat = 0x30 + d.toNat) ∧
  (∀ d : BitVec 4, 10 ≤ d.toNat → (hexChar d).toNat = 0x41 + (d.toNat - 10)) ∧
  (∀ c c' : Word, renderDigits c = renderDigits c' → c = c') ∧
  (∀ c : Word, trailerBytes c = renderDigits c ++ [0x0D, 0x0A]) ∧
  trailerBytes 0xBB3D = [0x42, 0x42, 0x33, 0x44, 0x0D, 0x0A] ∧
  trailerBytes 0x8D92 = [0x38, 0x44, 0x39, 0x32, 0x0D, 0x0A] ∧
  renderDigits 0x00BB = [0x30, 0x30, 0x42, 0x42] ∧ renderDigits 0x0000 = [0x30, 0x30, 0x30, 0x30]

/-- R72 and R75 (a). The receiver accepts every telegram the host renders, and accepts four received digits after a covered message
exactly when they are those of its checksum. The rules do not say where a receiver finds the end of the covered bytes: that it is the
`0x21` seven bytes before the end of the buffer, so that a body may hold a `0x21` of its own and any two bytes may end the telegram,
is the model's choice (DESIGN CHOICE, log entry 12). -/
def Obligations.ReceiverRecomputes : Prop :=
  (∀ body : List Byte, verifies (telegram body) = true) ∧
  (∀ body received ending : List Byte, received.length = 4 → ending.length = 2 →
    (verifies (body ++ [0x21] ++ received ++ ending) = true ↔
      received = renderDigits (checksum (body ++ [0x21]))))
end

