-- ==== Sys2Proof/Config.lean ====
section
/-! DEFINITION. What an implementation fixes. The algorithm's own parameters are hardwired literals and no configuration
(`10_state.md` R18), so the one open parameter of the spec is the clock frequency. -/

namespace Sys2Proof

/-- `F_CLK`, the clock frequency, in whole cycles per second: the spec's one open parameter
(`70_reset_and_hazards.md` R97, `93_implementation_defined.md` U5). No rule reads it and nothing of this model does; it has no
body, so nothing can be proved of its value. DESIGN CHOICE (the unit), safe; log entry 9. -/
opaque Config.fClk : Nat

end Sys2Proof
end

