-- ==== Sys2Proof/Laws/AsmText.lean ====
section
/-! SUPPORT. What the reading of a digit can answer, and that it undoes the rendering of R73. -/

namespace Sys2Proof.Machine

/-- A digit that is read is a digit of the base, and the character writes it. -/
theorem digitValue_spec {base d : Nat} {c : Char} (h : digitValue base c = some d) :
    d < base ∧ writesDigit c d = true :=
  ⟨List.mem_range.mp (List.mem_of_find?_eq_some h), List.find?_some h⟩

/-- The character a digit is rendered by is read as that digit. -/
theorem digitValue_hexChar (d : BitVec 4) :
    digitValue 16 (Char.ofNat (hexChar d).toNat) = some d.toNat := by
  revert d; decide +kernel

@[simp] theorem readDigits_nil (base read : Nat) : readDigits base read [] = some read := rfl

/-- Reading one digit more. -/
theorem readDigits_cons {base d : Nat} {c : Char} (h : digitValue base c = some d) (read : Nat) (rest : List Char) :
    readDigits base read (c :: rest) = readDigits base (base * read + d) rest := by
  simp only [readDigits, h]

end Sys2Proof.Machine
end

