-- ==== Sys2Proof/Laws/Assembler.lean ====
section
/-! SUPPORT. The check on a text and the reading of it agree. -/

namespace Sys2Proof.Machine

/-- A text is well-formed exactly when its bytes can be read (R44 c). -/
theorem textOk_eq_isSome (t : List Char) : textOk t = (textBytes t).isSome := by
  induction t using textOk.induct with
  | case1 => rfl
  | case2 cs ih => simp [textOk, textBytes, ih]
  | case3 cs ih => simp [textOk, textBytes, ih]
  | case4 cs ih => simp [textOk, textBytes, ih]
  | case5 cs ih => simp [textOk, textBytes, ih]
  | case6 c cs h1 h2 h3 h4 ih =>
    rw [textOk, textBytes]
    · by_cases h : (c != '\\' && c != '"' && decide (c.toNat < 0x80)) = true
      · simp only [h, if_true, Bool.true_and, ih, Option.isSome_map]
      · simp only [Bool.not_eq_true] at h
        simp [h]
    all_goals assumption

end Sys2Proof.Machine
end

