-- ==== Sys2Proof/Laws/Decode.lean ====
section
/-! SUPPORT. The bits of the input word that the ports form. -/

namespace Sys2Proof

/-- Each bit of the word is a bit of one port (R36). -/
theorem InputPorts.word_getLsbD (p : InputPorts) (i : Nat) :
    p.word.getLsbD i =
      if i < 8 then p.data.getLsbD i
      else if i = 8 then p.valid
      else if i = 9 then p.init
      else if i = 10 then p.rst
      else false := by
  simp only [InputPorts.word, BitVec.getLsbD_append, BitVec.getLsbD_ofBool]
  by_cases h : i < 8
  · simp [h]
  · by_cases h8 : i = 8
    · subst h8; simp
    · by_cases h9 : i = 9
      · subst h9; simp
      · by_cases h10 : i = 10
        · subst h10; simp
        · rw [if_neg h, if_neg h8, if_neg h9, if_neg h10, if_neg h]
          simp [show ¬i - 8 < 1 by omega, show ¬i - 8 - 1 < 1 by omega, show i - 8 - 1 - 1 ≠ 0 by omega]

/-- With `rst` set the operation is RESET, whatever the other inputs are. -/
theorem InputPorts.operation_of_rst {p : InputPorts} (h : p.rst = true) : p.operation = .reset := by
  simp [InputPorts.operation, h]

/-- A number of eleven bits decodes to what its word decodes to. -/
theorem decodeNumber_of_ok {n : Nat} (h : inputNumberOk n = true) :
    decodeNumber n = .ok (decode (BitVec.ofNat 11 n)) := by
  simp [decodeNumber, h]

/-- A number of more than eleven bits is rejected by name. -/
theorem decodeNumber_of_not_ok {n : Nat} (h : inputNumberOk n = false) :
    decodeNumber n = .error .notElevenBits := by
  simp [decodeNumber, h]

end Sys2Proof
end

