-- ==== Sys2Proof/Laws/State.lean ====
section
/-! SUPPORT. One lemma per field per update of the state, so that no proof unfolds a record update. -/

namespace Sys2Proof.Machine

variable (s : State) (v : Word) (b : Byte) (ws : List InWord) (nbits w : Nat)

@[simp] theorem State.writeCrc_crc : (s.writeCrc v).crc = some v := rfl
@[simp] theorem State.writeCrc_run : (s.writeCrc v).run = s.run := rfl

@[simp] theorem State.absorb_crc : (s.absorb b).crc = s.crc.map fun r => bytestep r b := rfl
@[simp] theorem State.absorb_run : (s.absorb b).run = s.run := rfl

@[simp] theorem State.loadInit_crc : s.loadInit.crc = some 0x0000 := rfl
@[simp] theorem State.loadInit_run : s.loadInit.run = s.run := rfl

@[simp] theorem State.dropInput_crc : s.dropInput.crc = s.crc := rfl
@[simp] theorem State.dropInput_run : s.dropInput.run = s.run.tail := rfl

@[simp] theorem State.present_crc : (s.present ws).crc = s.crc := rfl
@[simp] theorem State.present_run : (s.present ws).run = ws := rfl

@[simp] theorem State.placeInput_crc : (s.placeInput nbits w).crc = s.crc := rfl
@[simp] theorem State.placeInput_run :
    (s.placeInput nbits w).run = BitVec.ofNat 11 (w % 2 ^ nbits) :: s.run.tail := rfl

@[simp] theorem State.reset_crc : State.reset.crc = some 0x0000 := rfl
@[simp] theorem State.reset_run : State.reset.run = [] := rfl
@[simp] theorem State.powerOn_crc : State.powerOn.crc = none := rfl
@[simp] theorem State.powerOn_run : State.powerOn.run = [] := rfl

end Sys2Proof.Machine
end

