-- ==== Sys2Proof/Laws/Ops.lean ====
section
/-! SUPPORT. What each shared operation can do, said once. -/

namespace Sys2Proof.Machine

/-! ### Arithmetic -/

@[simp] theorem bitsteps_zero (r : Word) : bitsteps 0 r = r := rfl

@[simp] theorem bitsteps_succ (n : Nat) (r : Word) : bitsteps (n + 1) r = bitsteps n (bitstep r) := rfl

/-- Bit-steps in a row are bit-steps after bit-steps. -/
theorem bitsteps_add (m n : Nat) (r : Word) : bitsteps (m + n) r = bitsteps n (bitsteps m r) := by
  induction m generalizing r with
  | zero => simp
  | succ m ih => rw [Nat.succ_add, bitsteps_succ, ih, bitsteps_succ]

/-- The zero extension of an XOR. -/
theorem zext16_xor (a b : Byte) : zext16 (a ^^^ b) = zext16 a ^^^ zext16 b := by
  simp [zext16]

/-- XORing a byte in twice undoes it. -/
@[simp] theorem xorin_xorin (r : Word) (b : Byte) : xorin (xorin r b) b = r := by
  simp [xorin]

/-! ### The register and the output -/

/-- A load leaves `0x0000` and the words to come. -/
theorem State.loadInit_eq (s : State) : s.loadInit = { crc := some 0x0000, run := s.run } := rfl

/-- Absorbing leaves the words to come, and takes "no value" to "no value" and a value to its byte-step. -/
theorem State.absorb_cases (s : State) (b : Byte) :
    (s.crc = none ∧ s.absorb b = s) ∨
    ∃ r, s.crc = some r ∧ s.absorb b = { crc := some (bytestep r b), run := s.run } := by
  obtain ⟨c, ws⟩ := s
  cases c with
  | none => exact .inl ⟨rfl, rfl⟩
  | some r => exact .inr ⟨r, rfl, rfl⟩

/-- Absorbing after a load does not depend on what was there before. -/
theorem State.loadInit_absorb (s : State) (b : Byte) :
    s.loadInit.absorb b = { crc := some (bytestep 0x0000 b), run := s.run } := rfl

/-- A pattern that sampling may show is the register's value, if it has one. -/
theorem State.eq_of_shows {s : State} {r v : Word} (hr : s.crc = some r) (h : s.shows v = true) : v = r := by
  simp only [State.shows, State.out, hr, beq_iff_eq] at h
  exact h.symm

end Sys2Proof.Machine
end

