-- ==== Sys2Proof/Laws/PerInstr.lean ====
section
/-! SUPPORT. A statement for every instruction, proved constructor by constructor: the canonical word of an instruction is
selected by its own row of the decode table (`30_encoding.md` R38, R42). -/

namespace Sys2Proof.Laws

/-- The row of the instruction's mnemonic selects its canonical word. -/
def EncodingRow.Statement (i : Instr) : Prop := i.mnemonic.row.selects (encode i) = true

theorem EncodingRow.reset : EncodingRow.Statement .reset := by
  unfold EncodingRow.Statement; decide

theorem EncodingRow.idle : EncodingRow.Statement .idle := by
  unfold EncodingRow.Statement; decide

theorem EncodingRow.init : EncodingRow.Statement .init := by
  unfold EncodingRow.Statement; decide

theorem EncodingRow.update (b : Byte) : EncodingRow.Statement (.update b) := by
  unfold EncodingRow.Statement; revert b; decide

theorem EncodingRow.start (b : Byte) : EncodingRow.Statement (.start b) := by
  unfold EncodingRow.Statement; revert b; decide

end Sys2Proof.Laws
end

