-- ==== Sys2Proof/Laws/Run.lean ====
section
/-! SUPPORT. How runs and messages unfold. -/

namespace Sys2Proof.Machine

@[simp] theorem steps_zero (s : State) : steps 0 s = .next s := rfl

/-- A run of one step more, when that step is known. -/
theorem steps_succ {s t : State} (h : step s = .next t) (k : Nat) : steps (k + 1) s = steps k t := by
  simp [steps, h]

@[simp] theorem runWords_nil (s : State) : runWords [] s = .next { crc := s.crc, run := [] } := rfl

/-- The word on the inputs is the first of the list. -/
@[simp] theorem inputWord_cons (c : Option Word) (w : InWord) (ws : List InWord) :
    State.inputWord { crc := c, run := w :: ws } = w := rfl

/-- The word on the inputs of an exhausted list is the idle word. -/
@[simp] theorem inputWord_nil (c : Option Word) : State.inputWord { crc := c, run := [] } = idleWord := rfl

@[simp] theorem messageWords_nil : messageWords [] = [encode .init] := rfl

@[simp] theorem messageWords_cons (b : Byte) (m : List Byte) :
    messageWords (b :: m) = encode (.start b) :: continueWords m := by
  simp [messageWords, messageOps, continueWords, continueOps]

@[simp] theorem continueWords_nil : continueWords [] = [] := rfl

@[simp] theorem continueWords_cons (b : Byte) (m : List Byte) :
    continueWords (b :: m) = encode (.update b) :: continueWords m := rfl

end Sys2Proof.Machine
end

