-- ==== Sys2Proof/Tests/Slice0.lean ====
section
/-! SUPPORT. Tests on fixed values taken from the spec (each names its source), and for every statement that has hypotheses a
witness that meets them. -/

namespace Sys2Proof.Tests

open Sys2Proof.Machine

/-! ### What the checks refuse -/

theorem test_input_number_of_twelve_bits_refused : inputNumberOk 0x800 = false := by decide

theorem test_input_number_largest_accepted : inputNumberOk 0x7FF = true := by decide

theorem test_byte_number_of_nine_bits_refused : byteNumberOk 0x100 = false := by decide

theorem test_text_dangling_backslash_refused : textOk ['a', '\\'] = false := by decide

theorem test_text_unknown_escape_refused : Pseudo.wellFormed (.msgstr ['\\', 't']) = false := by decide

theorem test_text_not_ascii_refused : AsmLine.wellFormed (.pseudo (.msgstr ['a', 'é'])) = false := by decide

theorem test_text_bare_quote_refused : textOk ['"'] = false := by decide

theorem test_decode_number_of_twelve_bits_rejected : decodeTableWord 16 0x800 = none := by decide

/-! ### Decoding: words written out bit by bit from R38 (vectors E1 to E15) -/

theorem test_decode_idle : decode 0b00000000000 = .idle := by decide

theorem test_decode_idle_data_set : decode 0b00000110001 = .idle := by decide

theorem test_decode_init : decode 0b01000000000 = .init := by decide

theorem test_decode_init_data_set : decode 0b01010100101 = .init := by decide

theorem test_decode_update : decode 0b00100110010 = .update 0x32 := by decide

theorem test_decode_update_all_ones : decode 0b00111111111 = .update 0xFF := by decide

theorem test_decode_start : decode 0b01100110001 = .start 0x31 := by decide

theorem test_decode_start_zero : decode 0b01100000000 = .start 0x00 := by decide

theorem test_decode_reset : decode 0b10000000000 = .reset := by decide

theorem test_decode_reset_all_ones : decode 0b11111111111 = .reset := by decide

theorem test_encode_canonical :
    (encode .reset, encode .idle, encode .init, encode (.update 0x32), encode (.start 0x31)) =
      (0x400, 0x000, 0x200, 0x132, 0x331) := by decide

theorem test_ports_word : InputPorts.word ⟨false, true, true, 0x31⟩ = 0x331 := by decide

/-! ### One step -/

/-- The register after an outcome, if the machine went on. -/
def crcAfter (o : Host.Outcome State Fault Refusal) : Option (Option Word) :=
  match o with
  | .next t => some t.crc
  | .fault _ => none
  | .refused _ => none

/-- One step from a register content, with one word on the inputs. -/
def oneStep (c : Option Word) (w : InWord) : Option (Option Word) := crcAfter (step { crc := c, run := [w] })

/-- Vector E5. -/
theorem test_reset_loads_zero : oneStep (some 0xD4C1) 0x400 = some (some 0x0000) := by decide

/-- Vector E10: the byte presented with `rst` is not absorbed. -/
theorem test_reset_drops_byte : oneStep (some 0xD4C1) 0x531 = some (some 0x0000) := by decide

/-- Vector E7: the byte is not absorbed while `valid` is 0. -/
theorem test_idle_ignores_data : oneStep (some 0xD4C1) 0x031 = some (some 0xD4C1) := by decide

/-- Vector E16. -/
theorem test_idle_keeps_no_value : oneStep none 0x000 = some none := by decide

/-- Vector E8. -/
theorem test_init_loads_zero : oneStep (some 0xD4C1) 0x2A5 = some (some 0x0000) := by decide

/-- Vector E19. -/
theorem test_init_defines_state : oneStep none 0x200 = some (some 0x0000) := by decide

/-- Vector E3. -/
theorem test_update_absorbs : oneStep (some 0xD4C1) 0x132 = some (some 0x4594) := by decide

/-- Vector E17. -/
theorem test_update_keeps_no_value : oneStep none 0x131 = some none := by decide

/-- Vector E15. -/
theorem test_start_ignores_register : oneStep (some 0x1234) 0x3FF = some (some 0x4040) := by decide

/-- Vector E18. -/
theorem test_start_defines_state : oneStep none 0x331 = some (some 0xD4C1) := by decide

/-- R98: an exhausted run is followed by IDLE. -/
theorem test_exhausted_run_idles : crcAfter (step { crc := some 0xBB3D, run := [] }) = some (some 0xBB3D) := by
  decide

/-- The word placed after reset is the first to run. -/
theorem test_placed_word_runs : crcAfter (step (State.reset.withFetchWord 16 0x331)) = some (some 0xD4C1) := by
  decide

/-! ### Arithmetic and messages -/

/-- Vectors B4, B8, B11, B13, B14. -/
theorem test_bitstep_vectors :
    [0x0003, 0xA001, 0x5555, 0xBB3D, 0x0031].map bitstep = [0xA000, 0xF001, 0x8AAB, 0xFD9F, 0xA019] := by
  decide

/-- Vectors X5, X8, U17, U18, U21. -/
theorem test_bytestep_vectors :
    [bytestep 0xFFFF 0x00, bytestep 0x1234 0x56, bytestep 0xBB3D 0xBB, bytestep 0x8000 0x00, bytestep 0xA001 0x01] =
      [0x40BF, 0xE993, 0xA23A, 0x0080, 0x00A0] := by
  decide

/-- Vector S1, the document's own check value. -/
theorem test_check_value :
    checksum [0x31, 0x32, 0x33, 0x34, 0x35, 0x36, 0x37, 0x38, 0x39] = 0xBB3D := by
  decide +kernel

/-- Vectors V8, V16, V25. -/
theorem test_checksum_vectors :
    [checksum [0xFF, 0xFF], checksum [0x61, 0x62, 0x63], checksum [0x2F, 0x54, 0x0D, 0x0A, 0x21]] =
      [0xB001, 0x9738, 0x8D92] := by
  decide +kernel

/-- Section 6 of the vectors, "Check on the table as a whole": the XOR of all 256 entries is zero. -/
theorem test_table_xor : tableT.foldl (· ^^^ ·) 0x0000 = 0x0000 := by decide +kernel

/-! ### The host and the notation -/

/-- Program P6: the whole buffer handed to the sink. -/
theorem test_telegram_sample :
    telegram [0x2F, 0x54, 0x0D, 0x0A] =
      [0x2F, 0x54, 0x0D, 0x0A, 0x21, 0x38, 0x44, 0x39, 0x32, 0x0D, 0x0A] := by
  decide +kernel

/-- Vectors H2 and H10. -/
theorem test_rendering : [trailerBytes 0x000A, trailerBytes 0x9ABC] =
    [[0x30, 0x30, 0x30, 0x41, 0x0D, 0x0A], [0x39, 0x41, 0x42, 0x43, 0x0D, 0x0A]] := by decide

/-- A receiver refuses a wrong digit. -/
theorem test_receiver_refuses_wrong_digit :
    verifies [0x2F, 0x54, 0x0D, 0x0A, 0x21, 0x38, 0x44, 0x39, 0x33, 0x0D, 0x0A] = false := by
  decide +kernel

/-- Program P7, from power-on without reset. -/
theorem test_program_p7 :
    expectsHold State.powerOn
      [.op .idle, .expectUnspecified, .op (.update 0x31), .expectUnspecified, .op (.start 0x31), .expect 0xD4C1,
       .op (.update 0x32), .expect 0x4594] = true := by
  decide +kernel

/-- An expectation fails in the state "no value". -/
theorem test_expect_fails_without_value : expectsHold State.powerOn [.expect 0x0000] = false := by decide

/-- The source form of program P3 begins with this line. -/
theorem test_read_msgstr : readLine "MSGSTR \"abc\"  ; first".toList = .line (.pseudo (.msgstr ['a', 'b', 'c'])) := by
  decide +kernel

theorem test_read_cont : readLine "CONT '6' 0x37".toList = .line (.pseudo (.cont [0x36, 0x37])) := by
  decide +kernel

theorem test_read_expect : readLine "EXPECT 0xBB3D".toList = .line (.expect 0xBB3D) := by decide +kernel

theorem test_read_nop : readLine "NOP 12".toList = .line (.pseudo (.nop 12)) := by decide +kernel

theorem test_read_lower_case_digit : readLine "UPDATE 0xfA".toList = .line (.op (.update 0xFA)) := by decide +kernel

theorem test_read_no_digit_refused : readLine "UPDATE 0x3G".toList = .illFormed := by decide +kernel

theorem test_read_count_in_hexadecimal_refused : readLine "NOP 1A".toList = .illFormed := by decide +kernel

theorem test_read_lower_case_mnemonic_refused : readLine "reset".toList = .illFormed := by decide +kernel

theorem test_assemble_message : assemble [.pseudo (.msg [0x31, 0x32]), .expect 0x4594] = some [0x331, 0x132] := by
  decide

/-! ### Witnesses: states and operands that meet the hypotheses of each statement -/

theorem witness_ResetLoadsZero : InWord.rst 0x400 = true ∧ InWord.rst 0x7FF = true := by decide

theorem witness_IdleIsInvisible :
    BitVec.extractLsb' 8 3 (0x0FF : InWord) = 0b000 ∧ ∀ w ∈ ([0x000, 0x0FF] : List InWord), decode w = .idle := by
  decide

theorem witness_InitLoadsZero :
    BitVec.extractLsb' 8 3 (0x2FF : InWord) = 0b010 ∧ decode 0x200 = .init ∧ decode 0x2FF = .init := by decide

theorem witness_UpdateAbsorbsByte : BitVec.extractLsb' 8 3 (0x1FF : InWord) = 0b001 := by decide

theorem witness_StartLoadsThenAbsorbs : BitVec.extractLsb' 8 3 (0x3FF : InWord) = 0b011 := by decide

theorem witness_OperationFrame :
    (∃ t, exec .idle State.reset = .next t) ∧
    ((∃ t, exec .reset State.reset = .next t) ∧ loads .reset = true ∧ ∃ t', exec .reset State.powerOn = .next t') ∧
    ((∃ t, exec (.update 0xFF) State.reset = .next t) ∧ loads (.update 0xFF) = false) :=
  ⟨⟨_, rfl⟩, ⟨⟨_, rfl⟩, rfl, _, rfl⟩, ⟨_, rfl⟩, rfl⟩

theorem witness_RegisterAccess :
    (loads (.start 0xFF) = true ∧ State.reset.run = State.powerOn.run) ∧
    exec (.update 0xFF) State.reset = exec (.update 0xFF) State.reset :=
  ⟨⟨rfl, rfl⟩, rfl⟩

theorem witness_StepRunsDecodedWord :
    ((State.reset.present [0x331, 0x000]).run = [0x331, 0x000] ∧ decode 0x331 = .start 0x31) ∧
    State.reset.run = [] := by
  decide

theorem witness_PlacedWordRunsNext :
    decodeTableWord 16 0x331 = some (.start 0x31) ∧ decodeTableWord 16 0x7FF = some .reset := by decide

theorem witness_RunsCompose :
    (∃ t, runWords [0x200] State.powerOn = .next t) ∧ 1 ≤ ([0x331] : List InWord).length ∧
    0 ≤ ([0x331] : List InWord).length :=
  ⟨⟨_, rfl⟩, by decide, by decide⟩

theorem witness_DecodeEncodeAgree :
    Instr.wellFormed (.update 0xFF) = true ∧
    (0x7FF : InWord) &&& (decode 0x7FF).lookedAt = 0x400 &&& (decode 0x7FF).lookedAt := by
  decide

theorem witness_WordsPerOperation :
    (InWord.rst 0x400 = true ∧ InWord.rst 0x7FF = true) ∧
    (InWord.valid 0x200 = false ∧ InWord.valid 0x2FF = false ∧ InWord.rst 0x200 = InWord.rst 0x2FF ∧
      InWord.init 0x200 = InWord.init 0x2FF) ∧
    (InWord.rst 0x3FF = false ∧ InWord.valid 0x3FF = true ∧ decode 0x3FF = decode 0x3FF) := by
  decide

theorem witness_BitstepTestsThenShifts :
    (0x0001 : Word).getLsbD 0 = true ∧ (0xFFFE : Word).getLsbD 0 = false := by decide

theorem witness_XorinMeetsLowByte : 7 < 8 ∧ 8 ≤ 8 ∧ 8 ≤ 15 := by decide

theorem witness_ParallelEquations : 0 < 16 ∧ 15 < 16 := by decide

theorem witness_LinearOverXor : ([0x31, 0x32] : List Byte).length = ([0x61, 0x62] : List Byte).length := by decide

theorem witness_BijectionAndZeroBytes : bytestep 0xFFFF 0x00 = bytestep 0xFFFF 0x00 := rfl

theorem witness_SingleByteChangeDetected : (0x00 : Byte) ≠ 0xFF := by decide

theorem witness_CanonicalRunHoldsResult : ∀ w ∈ ([0x000, 0x0AB] : List InWord), decode w = .idle := by decide

theorem witness_PrefixShownWhileFeeding :
    (1 ≤ 1 ∧ 1 ≤ ([0x31, 0x32] : List Byte).length) ∧ (1 ≤ 2 ∧ 2 ≤ ([0x31, 0x32] : List Byte).length) := by decide

theorem witness_EquivalentRuns :
    feeds [0x31, 0x32] (([0x331, 0x0AB, 0x132] : List InWord).map decode) = true ∧
    feeds [0x31] (([0x200, 0x131, 0x000] : List InWord).map decode) = true ∧
    feeds [0x31] (([0x7FF, 0x131] : List InWord).map decode) = true ∧
    feeds [] (([0x200] : List InWord).map decode) = true := by
  decide

theorem witness_ContinuationWithoutLoad : ∀ w ∈ ([0x000] : List InWord), decode w = .idle := by decide

theorem witness_StepKeepsTracking :
    (State.reset.tracks (some []) = true ∧ ∃ t, step State.reset = .next t) ∧
    (State.powerOn.tracks none = true ∧ ∃ t, step State.powerOn = .next t) :=
  ⟨⟨by decide, _, rfl⟩, by decide, _, rfl⟩

theorem witness_HeldReset : ([0x400, 0x7FF] : List InWord) ≠ [] ∧ ∀ w ∈ ([0x400, 0x7FF] : List InWord), w.rst = true := by
  decide

theorem witness_NoValueUntilFirstLoad :
    crcAfter (runWords [] State.powerOn) = some none ∧ crcAfter (runWords [0x000, 0x131] State.powerOn) = some none := by
  decide

theorem witness_KnownStaysKnown : (∃ t, step State.reset = .next t) ∧ ∃ t, step State.powerOn = .next t :=
  ⟨⟨_, rfl⟩, _, rfl⟩

theorem witness_LoadForgetsThePast : ∃ w ∈ ([0x131, 0x331] : List InWord), loads (decode w) = true := by decide

theorem witness_FirstMessageAfterBoot :
    boots (([0x000, 0x400, 0x131] : List InWord).map decode) = true ∧
    ((([0x000, 0x400, 0x131] : List InWord).map decode).filter loads).length = 1 := by
  decide

theorem witness_EveryValueReachable : checksum [0x00, 0x31] = 0xD4C1 := by decide +kernel

theorem witness_Idempotency :
    decode 0x131 = .update 0x31 ∧ ∀ b : Byte, decode 0x331 ≠ .update b :=
  ⟨by decide, fun b => by rw [show decode 0x331 = .start 0x31 by decide]; exact Instr.noConfusion⟩

theorem witness_PseudoExpansions :
    (∀ c ∈ ['a', '!'], c.toNat < 0x80 ∧ c ≠ '\\' ∧ c ≠ '"') ∧ textBytes ['a', '\\', 'n'] = some [0x61, 0x0A] :=
  ⟨by simp, by decide⟩

theorem witness_OperandsAreRead :
    ("0123456789ABCDEF".toList[0]? = some '0' ∧ "0123456789ABCDEF".toList[15]? = some 'F' ∧
      "0123456789abcdef".toList[15]? = some 'f') ∧
    (0x20 ≤ (' ').toNat ∧ (' ').toNat ≤ 0x7E) ∧ (0x20 ≤ ('~').toNat ∧ ('~').toNat ≤ 0x7E) := by decide

theorem witness_ExpectationsAssert :
    State.reset.shows 0x0000 = true ∧
    (AsmLine.expectUnspecified = .expectUnspecified ∨ ∃ v, AsmLine.expectUnspecified = .expect v) ∧
    (AsmLine.expect 0x0000 = .expectUnspecified ∨ ∃ v, AsmLine.expect 0x0000 = .expect v) :=
  ⟨by decide, .inl rfl, .inr ⟨_, rfl⟩⟩

theorem witness_RenderedDigits :
    (1 ≤ 1 ∧ 1 ≤ 4) ∧ (1 ≤ 4 ∧ 4 ≤ 4) ∧ (9 : BitVec 4).toNat < 10 ∧ 10 ≤ (10 : BitVec 4).toNat ∧
    renderDigits 0xBB3D = renderDigits 0xBB3D := by
  decide

theorem witness_ReceiverRecomputes :
    (renderDigits 0x8D92).length = 4 ∧ ([0x0D, 0x0A] : List Byte).length = 2 := by decide

end Sys2Proof.Tests
end

/-! ### What each operation leaves in the register -/

namespace Sys2Proof.Machine

/-- The content of the register after an operation, from the content before it (R53 to R56, R88); "no value" is `none`. -/
@[simp] def newCrc : Instr → Option Word → Option Word
  | .reset, _ => some 0x0000
  | .idle, c => c
  | .init, _ => some 0x0000
  | .update b, c => c.map fun r => bytestep r b
  | .start b, _ => some (bytestep 0x0000 b)

/-- Every operation answers a next state, which differs in the register only (R23, R33, R76). -/
theorem exec_eq (i : Instr) (s : State) : exec i s = .next { crc := newCrc i s.crc, run := s.run } := by
  cases i <;> rfl

/-- Where an operation answers a next state, that state is the one `exec_eq` gives. -/
theorem eq_of_exec {i : Instr} {s t : State} (h : exec i s = .next t) :
    t = { crc := newCrc i s.crc, run := s.run } := by
  rw [exec_eq] at h
  exact (Host.Outcome.next.inj h).symm

/-- A state is its register and the words to come. -/
theorem State.eq_of_crc_run {s s' : State} (hcrc : s.crc = s'.crc) (hrun : s.run = s'.run) : s = s' := by
  cases s; cases s'; exact congrArg₂ State.mk hcrc hrun

/-- A loading operation does not read the register. -/
theorem newCrc_of_loads {i : Instr} (h : loads i = true) (c c' : Option Word) : newCrc i c = newCrc i c' := by
  cases i with
  | reset | init | start => rfl
  | idle | update => cases h

/-- An operation that does not load neither gives nor takes a value. -/
theorem isSome_newCrc_of_not_loads {i : Instr} (h : loads i = false) (c : Option Word) :
    (newCrc i c).isSome = c.isSome := by
  cases i with
  | reset | init | start => cases h
  | idle => rfl
  | update b => exact Option.isSome_map

/-- The first word of a run is performed, and the rest of the run follows from what it leaves. -/
theorem runWords_cons (w : InWord) (ws : List InWord) (s : State) :
    runWords (w :: ws) s = runWords ws { crc := newCrc (decode w) s.crc, run := [] } := by
  have hstep : step (s.present (w :: ws)) = .next { crc := newCrc (decode w) s.crc, run := ws } :=
    exec_eq (decode w) { crc := s.crc, run := ws }
  exact steps_succ hstep ws.length

/-- The canonical word of an operation decodes to it (R42). -/
@[simp] theorem decode_encode (i : Instr) : decode (encode i) = i := by
  cases i with
  | reset | idle | init => decide
  | update b => revert b; decide
  | start b => revert b; decide

/-! ### The bit-step as a linear bijection -/

/-- With the tested bit clear the bit-step is the shift alone (R47). -/
theorem bitstep_of_not_testedBit {r : Word} (h : testedBit r = false) : bitstep r = r >>> 1 := by
  simp [bitstep, h]

/-- With the tested bit set the constant is XORed into the shifted value (R47). -/
theorem bitstep_of_testedBit {r : Word} (h : testedBit r = true) : bitstep r = (r >>> 1) ^^^ polyR := by
  simp [bitstep, h]

/-- The bit-step is linear over XOR (R59). -/
theorem bitstep_xor (r q : Word) : bitstep (r ^^^ q) = bitstep r ^^^ bitstep q := by
  have htest : testedBit (r ^^^ q) = (testedBit r ^^ testedBit q) := BitVec.getLsbD_xor
  have hshift : (r ^^^ q) >>> 1 = (r >>> 1) ^^^ (q >>> 1) := BitVec.ushiftRight_xor_distrib r q 1
  cases hr : testedBit r <;> cases hq : testedBit q <;>
    simp [bitstep, htest, hshift, hr, hq, BitVec.xor_assoc, BitVec.xor_comm polyR]

/-- Bit 15 of the result says whether the constant was XORed in (R60 a). -/
theorem getLsbD_bitstep_fifteen (r : Word) : (bitstep r).getLsbD 15 = testedBit r := by
  cases h : testedBit r with
  | false => simp [bitstep_of_not_testedBit h]
  | true => simp [bitstep_of_testedBit h, polyR]

/-- The tested bit, shifted out, is all that the shift right and back loses. -/
theorem shiftLeft_shiftRight_or_testedBit (r : Word) :
    (r >>> 1) <<< 1 ||| (if testedBit r then 1 else 0) = r := by
  apply BitVec.eq_of_getLsbD_eq
  intro i hi
  cases i with
  | zero => cases h : testedBit r <;> simp_all [testedBit]
  | succ i => cases h : testedBit r <;> simp [hi, Nat.add_comm]

/-- The inverse that R60 (a) gives undoes the bit-step. -/
theorem bitstepInv_bitstep (r : Word) : bitstepInv (bitstep r) = r := by
  have hback := shiftLeft_shiftRight_or_testedBit r
  cases h : testedBit r with
  | false =>
    rw [bitstepInv, getLsbD_bitstep_fifteen, h, bitstep_of_not_testedBit h]
    simpa [h] using hback
  | true =>
    rw [bitstepInv, getLsbD_bitstep_fifteen, h, bitstep_of_testedBit h, BitVec.xor_assoc, BitVec.xor_self]
    simpa [h] using hback

/-- The bit-step is a bijection of the 16-bit values (R60 a). -/
theorem bitstep_bijective : Function.Bijective bitstep :=
  Finite.injective_iff_bijective.mp (Function.LeftInverse.injective bitstepInv_bitstep)

/-! ### Bit-steps in a row, and the byte-step -/

/-- Bit-steps in a row are linear over XOR. -/
theorem bitsteps_xor (n : Nat) (r q : Word) : bitsteps n (r ^^^ q) = bitsteps n r ^^^ bitsteps n q := by
  induction n generalizing r q with
  | zero => rfl
  | succ n ih => simp only [bitsteps_succ, bitstep_xor, ih]

/-- Bit-steps in a row are the iterate of the bit-step. -/
theorem bitsteps_eq_iterate (n : Nat) : bitsteps n = bitstep^[n] := by
  induction n with
  | zero => rfl
  | succ n ih => funext r; rw [bitsteps_succ, ih, Function.iterate_succ_apply]

/-- Bit-steps in a row are a bijection. -/
theorem bitsteps_bijective (n : Nat) : Function.Bijective (bitsteps n) :=
  bitsteps_eq_iterate n ▸ bitstep_bijective.iterate n

/-- XORing a byte in is its own inverse. -/
theorem xorin_involutive (b : Byte) : Function.Involutive fun r => xorin r b := fun r => xorin_xorin r b

/-- The byte-step of a fixed byte merges no two register values (R60 a). -/
theorem bytestep_injective (b : Byte) : Function.Injective fun r => bytestep r b :=
  (bitsteps_bijective 8).injective.comp (xorin_involutive b).injective

/-- As many bit-steps as there are clear low bits only shift them out. -/
theorem bitsteps_of_low_zero (n : Nat) {r : Word} (h : ∀ i < n, r.getLsbD i = false) :
    bitsteps n r = r >>> n := by
  induction n generalizing r with
  | zero => simp
  | succ n ih =>
    have hr : bitstep r = r >>> 1 := bitstep_of_not_testedBit (h 0 n.succ_pos)
    have hlow : ∀ i < n, (r >>> 1).getLsbD i = false := fun i hi => by
      rw [BitVec.getLsbD_ushiftRight]; exact h (1 + i) (by omega)
    rw [bitsteps_succ, hr, ih hlow, ← BitVec.shiftRight_add, Nat.add_comm]

/-- The zero extension puts a clear upper half over the byte (R39). -/
theorem zext16_eq_append (b : Byte) : zext16 b = 0#8 ++ b := BitVec.setWidth_eq_append (by decide)

/-- A byte in the upper half, over a clear lower half, comes down in eight bit-steps. -/
theorem bitsteps_append_zero (d : Byte) : bitsteps 8 (d ++ 0#8) = zext16 d := by
  have hlow : ∀ i < 8, (d ++ 0#8).getLsbD i = false := fun i hi => by
    rw [BitVec.getLsbD_append, if_pos hi, BitVec.getLsbD_zero]
  have hshift : (d ++ 0#8) >>> 8 = 0#8 ++ (d ++ 0#8).extractLsb' 8 8 :=
    BitVec.ushiftRight_eq_extractLsb'_of_lt (by decide)
  rw [bitsteps_of_low_zero 8 hlow, zext16_eq_append]
  exact hshift.trans (congrArg (0#8 ++ ·) BitVec.extractLsb'_append_eq_left)

/-- Two byte-steps are sixteen bit-steps of the register with both bytes XORed in, the first in the lower half. -/
theorem bytestep_bytestep (r : Word) (b d : Byte) :
    bytestep (bytestep r b) d = bitsteps 16 (r ^^^ (d ++ b)) := by
  have hbytes : zext16 b ^^^ (d ++ 0#8) = d ++ b := by
    rw [zext16_eq_append, BitVec.xor_append, BitVec.zero_xor, BitVec.xor_zero]
  calc bytestep (bytestep r b) d
      = bitsteps 8 (bitsteps 8 (r ^^^ zext16 b) ^^^ bitsteps 8 (d ++ 0#8)) := by
        rw [bitsteps_append_zero]; rfl
    _ = bitsteps 8 (bitsteps 8 (r ^^^ (zext16 b ^^^ (d ++ 0#8)))) := by rw [← bitsteps_xor, BitVec.xor_assoc]
    _ = bitsteps 16 (r ^^^ (d ++ b)) := by rw [hbytes, ← bitsteps_add]

/-- The checksum of two bytes: sixteen bit-steps of the value whose lower half is the first byte. -/
theorem checksum_pair (b d : Byte) : checksum [b, d] = bitsteps 16 (d ++ b) := by
  calc checksum [b, d] = bytestep (bytestep 0x0000 b) d := rfl
    _ = bitsteps 16 (0x0000 ^^^ (d ++ b)) := bytestep_bytestep ..
    _ = bitsteps 16 (d ++ b) := congrArg (bitsteps 16) BitVec.zero_xor

/-- Every 16-bit value is the checksum of exactly one two-byte message (R14). -/
theorem existsUnique_checksum_pair (v : Word) :
    ∃ b d : Byte, checksum [b, d] = v ∧ ∀ b' d' : Byte, checksum [b', d'] = v → b' = b ∧ d' = d := by
  obtain ⟨q, rfl⟩ := (bitsteps_bijective 16).surjective v
  refine ⟨q.extractLsb' 0 8, q.extractLsb' 8 8, ?_, ?_⟩
  · rw [checksum_pair]
    exact congrArg (bitsteps 16) (BitVec.extractLsb'_append_extractLsb' (w := 8) (len := 8))
  · intro b' d' h
    rw [checksum_pair] at h
    obtain rfl := (bitsteps_bijective 16).injective h
    exact ⟨BitVec.extractLsb'_append_eq_right.symm, BitVec.extractLsb'_append_eq_left.symm⟩

/-! ### Runs that feed a message -/

/-- The words that continue a message fold its bytes into the register (R70). -/
theorem runWords_continueWords (m : List Byte) (r : Word) (pending : List InWord) :
    runWords (continueWords m) { crc := some r, run := pending } = .next { crc := some (fold r m), run := [] } := by
  induction m generalizing r pending with
  | nil => rfl
  | cons b m ih =>
    rw [continueWords_cons, runWords_cons, decode_encode]
    exact ih (bytestep r b) []

/-- The canonical run of a message leaves its checksum, from every state (R66, R68). -/
theorem runWords_messageWords (m : List Byte) (s : State) :
    runWords (messageWords m) s = .next { crc := some (checksum m), run := [] } := by
  cases m with
  | nil => rw [messageWords_nil, runWords_cons, decode_encode]; rfl
  | cons b m =>
    rw [messageWords_cons, runWords_cons, decode_encode]
    exact runWords_continueWords m (bytestep 0x0000 b) []

/-! ### The output and the tracking invariant -/

/-- While the register has a value, sampling may show that value only (R15). -/
theorem State.shows_some (r v : Word) (ws : List InWord) :
    State.shows { crc := some r, run := ws } v = true ↔ v = r :=
  beq_iff_eq.trans eq_comm

/-- While the register has no value, sampling may show any pattern (R15, R90). -/
@[simp] theorem State.shows_none (v : Word) (ws : List InWord) :
    State.shows { crc := none, run := ws } v = true := rfl

/-- The register stands for a message when it holds its checksum. -/
@[simp] theorem State.tracks_some (s : State) (m : List Byte) :
    s.tracks (some m) = true ↔ s.crc = some (checksum m) := beq_iff_eq

/-- Where no message has been begun, the register may be anything. -/
@[simp] theorem State.tracks_none (s : State) : s.tracks none = true := rfl

/-- The empty message has the checksum `0x0000` (R63). -/
@[simp] theorem checksum_nil : checksum [] = 0x0000 := rfl

/-! ### The statements about the state -/

/-- Settles O7: only UPDATE reads the register, and its byte-step merges no two contents. -/
theorem registerAccess : Obligations.RegisterAccess := by
  refine ⟨fun i s s' hload hrun => ?_, exec_eq .idle, fun b s s' hrun h => ?_⟩
  · rw [exec_eq, exec_eq, newCrc_of_loads hload s.crc s'.crc, hrun]
  · have hcrc : newCrc (.update b) s.crc = newCrc (.update b) s'.crc := by
      rw [exec_eq _ s, exec_eq _ s'] at h
      exact congrArg State.crc (Host.Outcome.next.inj h)
    exact State.eq_of_crc_run (Option.map_injective (bytestep_injective b) hcrc) hrun

/-- Settles O49: the two bytes are the halves of the value that sixteen bit-steps take to `v`, and the canonical run of the
message reaches `v`. -/
theorem everyValueReachable : Obligations.EveryValueReachable := by
  refine ⟨existsUnique_checksum_pair, fun v => ?_⟩
  obtain ⟨b, d, hv, -⟩ := existsUnique_checksum_pair v
  exact ⟨messageWords [b, d], fun pending => hv ▸ runWords_messageWords [b, d] _⟩

/-- Settles O6: every clause reads off the one next state that `exec_eq` allows. -/
theorem operationFrame : Obligations.OperationFrame := by
  intro i s t h
  obtain rfl := eq_of_exec h
  refine ⟨rfl, fun hi => hi ▸ rfl, fun hload s' t' h' => ?_, fun hload => isSome_newCrc_of_not_loads hload s.crc⟩
  obtain rfl := eq_of_exec h'
  exact newCrc_of_loads hload s'.crc s.crc

/-- Settles O41: the register after reset is the checksum of the empty message, and at power-on no message has been begun. -/
theorem trackingHoldsAtStart : Obligations.TrackingHoldsAtStart := by
  refine ⟨?_, State.tracks_none _⟩
  rw [State.tracks_some, checksum_nil, State.reset_crc]

/-- Settles O42: `exec_eq` gives the state each load leaves, from every state. -/
theorem resetValues : Obligations.ResetValues :=
  ⟨State.powerOn_crc, State.reset_crc, fun s => ⟨_, exec_eq .reset s, rfl⟩, fun s => ⟨_, exec_eq .init s, rfl⟩,
    fun b s => ⟨_, exec_eq (.start b) s, rfl⟩⟩

/-- Settles O48: the one pattern shown while there is a value is that value, and two words are equal when their bits are. -/
theorem outputShowsRegister : Obligations.OutputShowsRegister :=
  ⟨fun _ => rfl, fun r v ws => (State.shows_some r v ws).trans BitVec.eq_of_getLsbD_eq_iff, State.shows_none⟩

end Sys2Proof.Machine

/-! ### Runs of any words -/

namespace Sys2Proof.Machine

/-- The content of the register after a list of words, each absorbed at its own edge, from the content before it. -/
def crcAfterWords (c : Option Word) (ws : List InWord) : Option Word :=
  ws.foldl (fun c w => newCrc (decode w) c) c

/-- Words in two parts: the second part goes on from what the first leaves. -/
theorem crcAfterWords_append (c : Option Word) (xs ys : List InWord) :
    crcAfterWords c (xs ++ ys) = crcAfterWords (crcAfterWords c xs) ys := List.foldl_append

/-- A step performs the next word and leaves the words behind it to come. -/
theorem step_cons (c : Option Word) (w : InWord) (ws : List InWord) :
    step { crc := c, run := w :: ws } = .next { crc := newCrc (decode w) c, run := ws } :=
  exec_eq (decode w) { crc := c, run := ws }

/-- As many steps as `xs` has words perform `xs`, whatever words `ys` come later, and leave `ys` to come. -/
theorem steps_append (c : Option Word) (xs ys : List InWord) :
    steps xs.length { crc := c, run := xs ++ ys } = .next { crc := crcAfterWords c xs, run := ys } := by
  induction xs generalizing c with
  | nil => rfl
  | cons x xs ih => exact (steps_succ (step_cons c x (xs ++ ys)) xs.length).trans (ih _)

/-- A run performs all its words. -/
theorem runWords_eq (ws : List InWord) (s : State) :
    runWords ws s = .next { crc := crcAfterWords s.crc ws, run := [] } := by
  have hsteps := steps_append s.crc ws []
  rwa [List.append_nil] at hsteps

/-- A run is its parts one after the other (R33). -/
theorem runWords_append {xs : List InWord} {s t : State} (h : runWords xs s = .next t) (ys : List InWord) :
    runWords (xs ++ ys) s = runWords ys t := by
  rw [runWords_eq] at h
  obtain rfl := Host.Outcome.next.inj h
  rw [runWords_eq, runWords_eq, crcAfterWords_append]

/-- Bytes added at the end of a message are absorbed after it (R27). -/
theorem checksum_append (m n : List Byte) : checksum (m ++ n) = fold (checksum m) n := List.foldl_append

/-- The checksum of two bytes by its two byte-steps, over the value between them. -/
theorem checksum_pair_of_bytesteps {b d : Byte} {r v : Word} (hb : bytestep 0x0000 b = r) (hd : bytestep r d = v) :
    checksum [b, d] = v := by
  subst hb hd
  rfl

/-- An operation other than UPDATE does nothing more when it is performed again (R31 c). -/
theorem newCrc_newCrc_of_ne_update {i : Instr} (h : ∀ b : Byte, i ≠ .update b) (c : Option Word) :
    newCrc i (newCrc i c) = newCrc i c := by
  cases i with
  | reset | idle | init | start => rfl
  | update b => exact absurd rfl (h b)

/-! ### The byte taken in bit by bit -/

/-- A value XORed in before a bit-step: its bit 0 acts with the step, and its other bits wait in the register, one place down. -/
theorem bitstep_xor_eq_serialBit (r v : Word) :
    bitstep (r ^^^ v) = serialBit r (testedBit v) ^^^ (v >>> 1) := by
  have htest : testedBit (r ^^^ v) = (testedBit r ^^ testedBit v) := BitVec.getLsbD_xor
  have hshift : (r ^^^ v) >>> 1 = (r >>> 1) ^^^ (v >>> 1) := BitVec.ushiftRight_xor_distrib r v 1
  rw [bitstep, serialBit, htest, hshift]
  split
  · rw [BitVec.xor_assoc, BitVec.xor_assoc, BitVec.xor_comm polyR]
  · rfl

/-- After `n` bit-steps, `n` low bits of a value XORed in at once have acted one after the other, and the rest waits. -/
theorem bitsteps_xor_eq_foldl_serialBit (n : Nat) (r v : Word) :
    bitsteps n (r ^^^ v) = ((List.range n).map v.getLsbD).foldl serialBit r ^^^ (v >>> n) := by
  induction n generalizing r v with
  | zero => simp
  | succ n ih =>
    have hbits : (List.range (n + 1)).map v.getLsbD = testedBit v :: (List.range n).map (v >>> 1).getLsbD := by
      simp [List.range_succ_eq_map, testedBit, Function.comp_def, Nat.add_comm]
    rw [bitsteps_succ, bitstep_xor_eq_serialBit, ih, hbits, List.foldl_cons, ← BitVec.shiftRight_add, Nat.add_comm 1 n]

/-- A zero-extended byte has no bit left after eight places. -/
theorem zext16_shiftRight_eight (b : Byte) : zext16 b >>> 8 = 0 := by
  apply BitVec.eq_of_getLsbD_eq
  intro i hi
  simp [zext16]

/-- The low eight bits of a zero-extended byte are the bits of the byte. -/
theorem map_getLsbD_zext16 (b : Byte) :
    (List.range 8).map (zext16 b).getLsbD = (List.range 8).map b.getLsbD :=
  List.map_congr_left fun i hi => by
    have hi16 : i < 16 := (List.mem_range.mp hi).trans (by decide)
    simp [zext16, hi16]

/-! ### The statements about runs and the order of bits and bytes -/

/-- Settles O13: both clauses follow from the one end state of a run, and the first `k` words leave the others to come. -/
theorem runsCompose : Obligations.RunsCompose := by
  refine ⟨fun xs ys s t h => runWords_append h ys, fun ws k s hk => ⟨_, ?_, runWords_eq (ws.take k) s⟩⟩
  have hsteps := steps_append s.crc (ws.take k) (ws.drop k)
  rwa [List.take_append_drop, List.length_take_of_le hk] at hsteps

/-- Settles O23: the byte's bits act from bit 0 up as the bit-steps shift them down, and after eight none is left. -/
theorem leastSignificantBitFirst : Obligations.LeastSignificantBitFirst := by
  intro r b
  calc bytestep r b
      = ((List.range 8).map (zext16 b).getLsbD).foldl serialBit r ^^^ (zext16 b >>> 8) :=
        bitsteps_xor_eq_foldl_serialBit 8 r (zext16 b)
    _ = ((List.range 8).map b.getLsbD).foldl serialBit r := by
        rw [zext16_shiftRight_eight, map_getLsbD_zext16]; exact BitVec.xor_zero
    _ = serialStep r b := rfl

/-- Settles O32: the run of the message ends with its checksum, and the UPDATE folds the last byte into that. -/
theorem byteOrderMatters : Obligations.ByteOrderMatters := by
  refine ⟨fun b m s => ?_,
    checksum_pair_of_bytesteps (r := 0xC0C1) (by decide) (by decide),
    checksum_pair_of_bytesteps (r := 0xC181) (by decide) (by decide)⟩
  calc runWords (messageWords (m ++ [b])) s
      = .next { crc := some (fold (checksum m) [b]), run := [] } := by
        rw [runWords_messageWords, checksum_append]
    _ = runWords (continueWords [b]) { crc := some (checksum m), run := [] } := (runWords_continueWords ..).symm
    _ = runWords (messageWords m ++ continueWords [b]) s := (runWords_append (runWords_messageWords m s) _).symm

/-- Settles O50: a word at two edges applies what it does to the register twice. -/
theorem idempotency : Obligations.Idempotency := by
  refine ⟨fun b r w ws hw => ?_, by decide, by decide, fun w s hw => ?_⟩
  · rw [runWords_cons, runWords_cons, hw]; rfl
  · rw [runWords_cons, runWords_cons, runWords_cons, newCrc_newCrc_of_ne_update hw]

end Sys2Proof.Machine

/-! ### The word and its ports -/

namespace Sys2Proof

/-- Bits put above other bits count `2 ^ n` times as much. -/
theorem toNat_append_eq_add {m n : Nat} (x : BitVec m) (y : BitVec n) :
    (x ++ y).toNat = x.toNat * 2 ^ n + y.toNat := by
  rw [BitVec.toNat_append, ← Nat.shiftLeft_add_eq_or_of_lt y.isLt, Nat.shiftLeft_eq]

/-- The word as the number of R36. -/
theorem InputPorts.word_toNat (p : InputPorts) :
    p.word.toNat = p.rst.toNat * 0x400 + p.init.toNat * 0x200 + p.valid.toNat * 0x100 + p.data.toNat := by
  simp only [InputPorts.word, toNat_append_eq_add, BitVec.toNat_ofBool]
  omega

@[simp] theorem InputPorts.rst_word (p : InputPorts) : InWord.rst p.word = p.rst := p.word_getLsbD 10

@[simp] theorem InputPorts.init_word (p : InputPorts) : InWord.init p.word = p.init := p.word_getLsbD 9

@[simp] theorem InputPorts.valid_word (p : InputPorts) : InWord.valid p.word = p.valid := p.word_getLsbD 8

@[simp] theorem InputPorts.data_word (p : InputPorts) : InWord.data p.word = p.data :=
  BitVec.extractLsb'_append_eq_right

/-- The ports of the word are the ports that formed it (R36). -/
@[simp] theorem InputPorts.ports_word (p : InputPorts) : InWord.ports p.word = p := by
  simp [InWord.ports]

/-- A word is formed by its own ports (R36). -/
@[simp] theorem InWord.word_ports (w : InWord) : w.ports.word = w := by
  apply BitVec.eq_of_getLsbD_eq
  intro i hi
  rw [InputPorts.word_getLsbD]
  split_ifs with hdata hvalid hinit hrst
  · simp [InWord.ports, InWord.data, hdata]
  · exact hvalid ▸ rfl
  · exact hinit ▸ rfl
  · exact hrst ▸ rfl
  · omega

/-- Different ports form different words. -/
theorem InputPorts.word_injective : Function.Injective InputPorts.word :=
  Function.LeftInverse.injective InputPorts.ports_word

/-- A word decodes to the operation its ports select. -/
@[simp] theorem decode_word (p : InputPorts) : decode p.word = p.operation := by
  rw [decode, InputPorts.ports_word]

/-- Settles O15: each bit of the word is a bit of one port, and the ports are put one above the other. -/
theorem inputWordIsItsPorts : Obligations.InputWordIsItsPorts :=
  ⟨fun p => ⟨p.ports_word, p.word_toNat⟩, InWord.word_ports⟩

/-! ### Canonical words and the bits looked at -/

/-- The inputs that the canonical word of an operation shows: those it does not look at are 0 (R42). -/
def Instr.ports : Instr → InputPorts
  | .reset => ⟨true, false, false, 0⟩
  | .idle => ⟨false, false, false, 0⟩
  | .init => ⟨false, true, false, 0⟩
  | .update b => ⟨false, false, true, b⟩
  | .start b => ⟨false, true, true, b⟩

/-- The inputs an operation looks at, set where it does (R40). -/
def Instr.lookedAtPorts : Instr → InputPorts
  | .reset => ⟨true, false, false, 0⟩
  | .idle => ⟨true, true, true, 0⟩
  | .init => ⟨true, true, true, 0⟩
  | .update _ => ⟨true, true, true, 0xFF⟩
  | .start _ => ⟨true, true, true, 0xFF⟩

/-- The inputs that are set in both. -/
def InputPorts.and (p q : InputPorts) : InputPorts :=
  ⟨p.rst && q.rst, p.init && q.init, p.valid && q.valid, p.data &&& q.data⟩

/-- Masking a word masks each input. -/
theorem InputPorts.word_and_word (p q : InputPorts) : p.word &&& q.word = (p.and q).word := by
  apply BitVec.eq_of_getLsbD_eq
  intro i _
  simp only [BitVec.getLsbD_and, InputPorts.word_getLsbD, InputPorts.and]
  split_ifs <;> rfl

/-- The encoder writes the canonical inputs (R42). -/
theorem encode_eq_word (i : Instr) : encode i = i.ports.word := by
  cases i with
  | reset | idle | init => decide
  | update b | start b =>
    apply BitVec.eq_of_toNat_eq
    simp only [InputPorts.word_toNat, Instr.ports, encode]
    bv_omega

/-- The mask of an operation is the inputs it looks at (R40). -/
theorem Instr.lookedAt_eq_word (i : Instr) : i.lookedAt = i.lookedAtPorts.word := by
  cases i with
  | reset | idle | init => decide
  | update | start => exact (by decide : (0x7FF : InWord) = InputPorts.word ⟨true, true, true, 0xFF⟩)

/-- The mask of all eight bits keeps a byte. -/
theorem Byte.and_allOnes (b : Byte) : b &&& 255#8 = b := BitVec.and_allOnes

/-- The canonical inputs of a selected operation are those that select it, with the ones not looked at cleared. -/
theorem InputPorts.ports_operation (p : InputPorts) :
    p.operation.ports = p.and p.operation.lookedAtPorts := by
  obtain ⟨rst, init, valid, data⟩ := p
  cases rst <;> cases init <;> cases valid <;>
    simp [InputPorts.operation, Instr.ports, Instr.lookedAtPorts, InputPorts.and, Byte.and_allOnes]

/-- The canonical word of what a word decodes to is the word with the bits not looked at cleared (R42). -/
theorem encode_decode (w : InWord) : encode (decode w) = w &&& (decode w).lookedAt := by
  rw [encode_eq_word, Instr.lookedAt_eq_word]
  calc (decode w).ports.word
      = (w.ports.and (decode w).lookedAtPorts).word := congrArg InputPorts.word w.ports.ports_operation
    _ = w &&& (decode w).lookedAtPorts.word := by rw [← InputPorts.word_and_word, InWord.word_ports]

/-- The inputs an operation looks at select it, whatever the others are (R40). -/
theorem InputPorts.operation_eq_of_and_eq {p q : InputPorts}
    (h : p.and p.operation.lookedAtPorts = q.and p.operation.lookedAtPorts) : q.operation = p.operation := by
  obtain ⟨rst, init, valid, data⟩ := p
  cases rst with
  | true =>
    have hrst : q.rst = true := by
      simpa [InputPorts.and, InputPorts.operation, Instr.lookedAtPorts] using (congrArg InputPorts.rst h).symm
    exact q.operation_of_rst hrst
  | false =>
    obtain ⟨qrst, qinit, qvalid, qdata⟩ := q
    cases init <;> cases valid <;> simp_all [InputPorts.operation, Instr.lookedAtPorts, InputPorts.and, Byte.and_allOnes]

/-- Words that agree on the bits that the operation of one looks at decode alike (R40). -/
theorem decode_eq_of_and_lookedAt_eq {w v : InWord} (h : w &&& (decode w).lookedAt = v &&& (decode w).lookedAt) :
    decode v = decode w := by
  apply InputPorts.operation_eq_of_and_eq
  apply InputPorts.word_injective
  rw [← InputPorts.word_and_word, ← InputPorts.word_and_word, InWord.word_ports, InWord.word_ports]
  rwa [Instr.lookedAt_eq_word] at h

/-- Every instruction is well-formed: its operand is a byte (R25). -/
theorem Instr.wellFormed_eq_true (i : Instr) : i.wellFormed = true := by
  cases i with
  | reset | idle | init => rfl
  | update b | start b => exact decide_eq_true b.isLt

/-- A word is read from its own number, with room for all its bits. -/
theorem decodeTableWord_toNat (w : InWord) : decodeTableWord 16 w.toNat = some (decode w) := by
  have hw : w.toNat < 0x800 := w.isLt
  have hmod : w.toNat % 2 ^ 16 = w.toNat := Nat.mod_eq_of_lt (by omega)
  rw [decodeTableWord, hmod, decodeNumber_of_ok (decide_eq_true hw), BitVec.ofNat_toNat, BitVec.setWidth_eq]

/-- Settles O14: a word is its ports, the canonical word clears the ports its operation does not look at, and the others select
the operation. -/
theorem decodeEncodeAgree : Obligations.DecodeEncodeAgree := by
  refine ⟨fun i _ => ⟨Machine.decode_encode i, ?_⟩, fun w => ⟨(decode w).wellFormed_eq_true, encode_decode w⟩,
    fun w v h => decode_eq_of_and_lookedAt_eq h⟩
  rw [decodeTableWord_toNat, Machine.decode_encode]

end Sys2Proof

/-! ### The decode table -/

namespace Sys2Proof

/-- The data does not decide which operation the inputs select (R38). -/
theorem InputPorts.mnemonic_operation (p : InputPorts) :
    p.operation.mnemonic = (InputPorts.operation ⟨p.rst, p.init, p.valid, 0⟩).mnemonic := by
  obtain ⟨rst, init, valid, data⟩ := p
  cases rst <;> cases init <;> cases valid <;> rfl

/-- The mask of RESET's row leaves `rst` (R38). -/
theorem InputPorts.word_and_rst (p : InputPorts) : p.word &&& 0x400 = InputPorts.word ⟨p.rst, false, false, 0⟩ := by
  rw [show (0x400 : InWord) = InputPorts.word ⟨true, false, false, 0⟩ by decide, InputPorts.word_and_word]
  simp [InputPorts.and]

/-- The mask of the other rows leaves the control inputs (R38). -/
theorem InputPorts.word_and_control (p : InputPorts) :
    p.word &&& 0x700 = InputPorts.word ⟨p.rst, p.init, p.valid, 0⟩ := by
  rw [show (0x700 : InWord) = InputPorts.word ⟨true, true, true, 0⟩ by decide, InputPorts.word_and_word]
  simp [InputPorts.and]

/-- A row of the table selects the words of its own operation and no others (R38). -/
theorem Mnemonic.selects_row (m : Mnemonic) (w : InWord) :
    m.row.selects w = decide ((decode w).mnemonic = m) := by
  rw [← w.word_ports, decode_word, OpRow.selects]
  generalize w.ports = p
  cases m with
  | reset =>
    rw [Mnemonic.row, InputPorts.word_and_rst, InputPorts.mnemonic_operation]
    generalize p.rst = rst, p.init = init, p.valid = valid
    revert rst init valid
    decide
  | idle | init | update | start =>
    rw [Mnemonic.row, InputPorts.word_and_control, InputPorts.mnemonic_operation]
    generalize p.rst = rst, p.init = init, p.valid = valid
    revert rst init valid
    decide

/-- Settles O16: a row selects a word exactly when it is the row of the word's operation, and the table has each row once. -/
theorem exactlyOneRowMatches : Obligations.ExactlyOneRowMatches := by
  intro w
  simp only [opTable, List.filter_cons, List.filter_nil, Mnemonic.selects_row]
  cases (decode w).mnemonic <;> rfl

/-! ### How many words an operation has -/

/-- Counting in blocks: where the numbers of a block of `b` agree, each block counts whole or not at all. -/
theorem count_mul_of_forall_block {p q : Nat → Prop} [DecidablePred p] [DecidablePred q] {b n : Nat}
    (h : ∀ k < n, ∀ d < b, (p (b * k + d) ↔ q k)) : Nat.count p (b * n) = b * Nat.count q n := by
  induction n with
  | zero => simp
  | succ n ih =>
    have hblock : Nat.count (fun d => p (b * n + d)) b = b * if q n then 1 else 0 := by
      split_ifs with hq
      · rw [Nat.mul_one, Nat.count_iff_forall]
        exact fun d hd => (h n n.lt_succ_self d hd).mpr hq
      · rw [Nat.mul_zero, Nat.count_iff_forall_not]
        exact fun d hd hp => hq ((h n n.lt_succ_self d hd).mp hp)
    rw [Nat.mul_succ, Nat.count_add, hblock, ih fun k hk => h k (hk.trans n.lt_succ_self), Nat.count_succ, Nat.mul_add]

/-- The control inputs as the number above the data; the data is 0. -/
def controlPorts (k : Nat) : InputPorts := ⟨k.testBit 2, k.testBit 1, k.testBit 0, 0⟩

/-- The words of one number of control inputs, with any data, are words of one operation. -/
theorem mnemonic_decode_ofNat (k : Nat) {d : Nat} (hd : d < 256) :
    (decode (BitVec.ofNat 11 (256 * k + d))).mnemonic = (controlPorts k).operation.mnemonic := by
  have hbit (i : Nat) (hi : 8 + i < 11) : (BitVec.ofNat 11 (256 * k + d)).getLsbD (8 + i) = k.testBit i := by
    rw [BitVec.getLsbD_ofNat, Nat.testBit_two_pow_mul_add (i := 8) k hd]
    simp [hi]
  rw [decode, InputPorts.mnemonic_operation, controlPorts, ← hbit 2 (by decide), ← hbit 1 (by decide),
    ← hbit 0 (by decide)]
  rfl

/-- An operation has 256 words for each number of control inputs that selects it (R40). -/
theorem Mnemonic.count_eq (m : Mnemonic) :
    m.count = 256 * Nat.count (fun k => (controlPorts k).operation.mnemonic = m) 8 := by
  have hcount : m.count = Nat.count (fun n => (decode (BitVec.ofNat 11 n)).mnemonic = m) (256 * 8) :=
    List.countP_eq_length_filter.symm
  rw [hcount]
  exact count_mul_of_forall_block fun k _ d hd => by rw [mnemonic_decode_ofNat k hd]

/-- Every word with `rst` set is RESET (R38, R88). -/
theorem decode_of_rst {w : InWord} (h : w.rst = true) : decode w = .reset := InputPorts.operation_of_rst h

/-- Without `valid`, the operation is that of `rst` and `init` alone (R40). -/
theorem decode_of_not_valid {w : InWord} (h : w.valid = false) :
    decode w = InputPorts.operation ⟨w.rst, w.init, false, 0⟩ := by
  rw [decode, InWord.ports, h]
  cases w.rst <;> cases w.init <;> rfl

/-- With `valid` and without `rst`, the operation looks at every bit (R40). -/
theorem lookedAt_decode_of_valid {w : InWord} (hrst : w.rst = false) (hvalid : w.valid = true) :
    (decode w).lookedAt = BitVec.allOnes 11 := by
  rw [decode, InWord.ports, hrst, hvalid]
  cases w.init <;> rfl

/-- Where the operation looks at every bit, the word is its canonical one. -/
theorem encode_decode_of_lookedAt_eq_allOnes {w : InWord} (h : (decode w).lookedAt = BitVec.allOnes 11) :
    encode (decode w) = w := by
  rw [encode_decode, h, BitVec.and_allOnes]

/-- Settles O17: the counts are those of the eight numbers of control inputs, 256 words to each; and an UPDATE or START word
is the canonical word of what it decodes to. -/
theorem wordsPerOperation : Obligations.WordsPerOperation := by
  refine ⟨?_, ?_, ?_, ?_, ?_, fun w v hw hv => ?_, fun w v hw hv hrst hinit => ?_, fun w v hrst hvalid h => ?_⟩
  iterate 5
    · rw [Mnemonic.count_eq]; decide
  · rw [decode_of_rst hw, decode_of_rst hv]
  · rw [decode_of_not_valid hw, decode_of_not_valid hv, hrst, hinit]
  · have hall := lookedAt_decode_of_valid hrst hvalid
    calc w = encode (decode w) := (encode_decode_of_lookedAt_eq_allOnes hall).symm
      _ = encode (decode v) := congrArg encode h
      _ = v := encode_decode_of_lookedAt_eq_allOnes (h ▸ hall)

/-- Settles O18: the ports of each written word select the operation. -/
theorem writtenWordsDecode : Obligations.WrittenWordsDecode :=
  ⟨rfl, rfl, rfl, rfl, rfl, rfl, rfl, rfl, rfl, rfl⟩

end Sys2Proof

/-! ### The step and its word -/

namespace Sys2Proof.Machine

/-- A step performs what the word on the inputs decodes to, and the words behind it are left to come. -/
theorem step_of_inputWord {s : State} {w : InWord} (h : s.inputWord = w) :
    step s = exec (decode w) { s with run := s.run.tail } := h ▸ rfl

/-- The word that stands for nothing presented is IDLE's canonical word. -/
@[simp] theorem decode_idleWord : decode idleWord = .idle := decode_encode .idle

/-- Settles O8: the word on the inputs is the first of the list, and IDLE's where the list is exhausted. -/
theorem stepRunsDecodedWord : Obligations.StepRunsDecodedWord := by
  refine ⟨fun s w ws i hrun hi => ?_, fun s hrun => ?_⟩
  · obtain ⟨c, run⟩ := s
    obtain rfl : run = w :: ws := hrun
    rw [step_of_inputWord (inputWord_cons c w ws), hi]
    rfl
  · obtain ⟨c, run⟩ := s
    obtain rfl : run = [] := hrun
    rw [step_of_inputWord (inputWord_nil c), decode_idleWord]
    rfl

/-- An instruction is read from a number as from the word of its eleven lowest bits. -/
theorem decode_ofNat_of_decodeTableWord {nbits w : Nat} {i : Instr} (h : decodeTableWord nbits w = some i) :
    decode (BitVec.ofNat 11 (w % 2 ^ nbits)) = i := by
  cases hok : inputNumberOk (w % 2 ^ nbits) with
  | true => simpa [decodeTableWord, decodeNumber_of_ok hok] using h
  | false => simp [decodeTableWord, decodeNumber_of_not_ok hok] at h

/-- Settles O9: the word on the inputs is that of the number placed there, and the decoder reads the same one. -/
theorem placedWordRunsNext : Obligations.PlacedWordRunsNext := by
  intro s nbits w i h
  have hword : (s.withFetchWord nbits w).inputWord = BitVec.ofNat 11 (w % 2 ^ nbits) := rfl
  rw [step_of_inputWord hword, decode_ofNat_of_decodeTableWord h]
  rfl

end Sys2Proof.Machine

/-! ### Pseudo-instructions and directives -/

namespace Sys2Proof.Machine

/-- The output has a value exactly when sampling may show that pattern and no other (R15, R45, R90). -/
theorem out_eq_some_iff_forall_shows (s : State) (v : Word) :
    s.out = some v ↔ ∀ x : Word, s.shows x = true → x = v := by
  obtain ⟨c, run⟩ := s
  cases c with
  | none =>
    have hne : v + 1 ≠ v := by simp
    exact ⟨(nomatch ·), fun h => absurd (h (v + 1) (State.shows_none _ run)) hne⟩
  | some r =>
    simp only [State.shows_some, forall_eq]
    exact Option.some_inj

/-- `EXPECT v` asserts that the output has the value `v` (R45). -/
@[simp] theorem expectsHold_expect (s : State) (v : Word) (ls : List AsmLine) :
    expectsHold s (.expect v :: ls) = (s.out == some v && expectsHold s ls) := by
  rw [expectsHold]

/-- `EXPECT unspecified` asserts nothing (R45). -/
@[simp] theorem expectsHold_expectUnspecified (s : State) (ls : List AsmLine) :
    expectsHold s (.expectUnspecified :: ls) = expectsHold s ls := by
  rw [expectsHold]

/-- No line asserts nothing. -/
@[simp] theorem expectsHold_nil (s : State) : expectsHold s [] = true := by
  rw [expectsHold]

/-- Settles O53: a directive looks at the output and leaves the state, and the output has the value `v` when only `v` may show. -/
theorem expectationsAssert : Obligations.ExpectationsAssert := by
  refine ⟨fun v => rfl, rfl, fun s v => ?_, fun s l ls hl => ?_, fun s => ?_⟩
  · rw [← out_eq_some_iff_forall_shows]
    simp
  · obtain rfl | ⟨v, rfl⟩ := hl
    · simp
    · simp
  · simp

/-- A character of a text that is no escape and no quote stands for its own byte (R44 c). -/
theorem textBytes_cons {c : Char} (hascii : c.toNat < 0x80) (hescape : c ≠ '\\') (hquote : c ≠ '"') (cs : List Char) :
    textBytes (c :: cs) = (textBytes cs).map (charByte c :: ·) := by
  have hc : (c != '\\' && c != '"' && decide (c.toNat < 0x80)) = true := by simp [hascii, hescape, hquote]
  rw [textBytes, if_pos hc]
  all_goals exact fun _ h _ => absurd h hescape

/-- A text of such characters is one byte a character (R44 c). -/
theorem textBytes_eq_map {text : List Char} (h : ∀ c ∈ text, c.toNat < 0x80 ∧ c ≠ '\\' ∧ c ≠ '"') :
    textBytes text = some (text.map charByte) := by
  induction text with
  | nil => rfl
  | cons c cs ih =>
    obtain ⟨⟨hascii, hescape, hquote⟩, hcs⟩ := List.forall_mem_cons.mp h
    rw [textBytes_cons hascii hescape hquote, ih hcs]
    rfl

/-- Settles O51: the expansions are those of the definitions, and the words of `MSG` are the canonical run. -/
theorem pseudoExpansions : Obligations.PseudoExpansions := by
  refine ⟨fun b m => rfl, rfl, fun m => rfl, fun k => rfl, ?_, fun text h => textBytes_eq_map h, fun text m h => ?_,
    fun m s => ⟨messageWords m, _, rfl, runWords_messageWords m s, rfl⟩⟩
  · decide
  · exact congrArg (Option.map messageOps) h

end Sys2Proof.Machine

/-! ### Written operations -/

namespace Sys2Proof.Machine

/-- A character that goes on with a bare token: no blank, and no start of a comment. -/
def continuesToken (c : Char) : Bool := c != ';' && !isBlank c

/-- A character that starts a bare token: one that may stand in it, and no quote. -/
def startsToken (c : Char) : Bool := continuesToken c && c != '\'' && c != '"'

/-- A character that goes on with a bare token is gathered. -/
theorem scan_bare_cons {c : Char} (hc : continuesToken c = true) (cs acc : List Char) :
    scan (c :: cs) (.bare acc) = scan cs (.bare (c :: acc)) := by
  simp_all [continuesToken, scan]

/-- Characters that go on with a bare token are gathered one after the other. -/
theorem scan_bare_append {w : List Char} (hw : w.all continuesToken = true) (cs acc : List Char) :
    scan (w ++ cs) (.bare acc) = scan cs (.bare (w.reverse ++ acc)) := by
  induction w generalizing acc with
  | nil => rfl
  | cons c w ih =>
    rw [List.all_cons, Bool.and_eq_true] at hw
    obtain ⟨hc, hw⟩ := hw
    rw [List.cons_append, scan_bare_cons hc, ih hw, List.reverse_cons, List.append_assoc, List.singleton_append]

/-- The first character of a bare token opens it. -/
theorem scan_blank_cons {c : Char} (hc : startsToken c = true) (cs : List Char) :
    scan (c :: cs) .blank = scan cs (.bare [c]) := by
  simp_all [startsToken, continuesToken, scan]

section
variable {c : Char} {w : List Char} (hc : startsToken c = true) (hw : w.all continuesToken = true)
include hc hw

/-- A bare token at the end of a line. -/
theorem scan_token : scan (c :: w) .blank = some [.bare (c :: w)] := by
  rw [scan_blank_cons hc, ← List.append_nil w, scan_bare_append hw]
  simp [scan]

/-- A bare token, a blank, and the tokens behind it. -/
theorem scan_token_blank (cs : List Char) :
    scan (c :: (w ++ ' ' :: cs)) .blank = (scan cs .blank).map (.bare (c :: w) :: ·) := by
  rw [scan_blank_cons hc, scan_bare_append hw]
  simp [scan, isBlank]

/-- A line of a command and its operands is read as the command with the operands. -/
theorem readLine_command {cs : List Char} {args : List Token} {l : AsmLine} (hargs : scan cs .blank = some args)
    (hl : readCommand (c :: w) args = some l) : readLine (c :: (w ++ ' ' :: cs)) = .line l := by
  rw [readLine, scan_token_blank hc hw, hargs]
  simp only [Option.map_some, hl]

end

/-- `UPDATE` with a byte operand (R43). -/
theorem readLine_update {cs : List Char} {t : Token} {b : Byte} (ht : scan cs .blank = some [t])
    (hb : readByte t = some b) : readLine ("UPDATE ".toList ++ cs) = .line (.op (.update b)) :=
  readLine_command (c := 'U') (w := "PDATE".toList) (by decide) (by decide) ht (congrArg (Option.map _) hb)

/-- `START` with a byte operand (R43). -/
theorem readLine_start {cs : List Char} {t : Token} {b : Byte} (ht : scan cs .blank = some [t])
    (hb : readByte t = some b) : readLine ("START ".toList ++ cs) = .line (.op (.start b)) :=
  readLine_command (c := 'S') (w := "TART".toList) (by decide) (by decide) ht (congrArg (Option.map _) hb)

/-- A character of a row of hexadecimal digits, in either case, is read as its place in the row, and may stand in a token. -/
theorem digitValue_of_getElem? {d : Nat} {a : Char}
    (h : "0123456789ABCDEF".toList[d]? = some a ∨ "0123456789abcdef".toList[d]? = some a) :
    digitValue 16 a = some d ∧ continuesToken a = true := by
  have hrow : ∀ x ∈ "0123456789ABCDEF".toList.zipIdx ++ "0123456789abcdef".toList.zipIdx,
      digitValue 16 x.1 = some x.2 ∧ continuesToken x.1 = true := by decide
  exact hrow (a, d) (List.mem_append.mpr (h.imp List.mem_zipIdx_iff_getElem?.mpr List.mem_zipIdx_iff_getElem?.mpr))

section
variable {d e : Nat} {a b : Char}

/-- Two hexadecimal digits after `0x` write a byte (R43). -/
theorem readByte_of_digits (ha : digitValue 16 a = some d) (hb : digitValue 16 b = some e) :
    readByte (.bare ['0', 'x', a, b]) = some (BitVec.ofNat 8 (16 * d + e)) := by
  rw [readByte, readDigits_cons ha, readDigits_cons hb, readDigits_nil, Nat.mul_zero, Nat.zero_add]
  rfl

/-- They are one token. -/
theorem scan_hexByte (ha : continuesToken a = true) (hb : continuesToken b = true) :
    scan ['0', 'x', a, b] .blank = some [.bare ['0', 'x', a, b]] :=
  scan_token (by decide) (by simp [ha, hb, show continuesToken 'x' = true by decide])

end

/-- A character in single quotes is one token, whatever it is. -/
theorem scan_quoted (c : Char) : scan ['\'', c, '\''] .blank = some [.quoted c] := by
  simp [scan, isBlank]

/-- A printable character in single quotes writes its byte (R43). -/
theorem readByte_quoted {c : Char} (hlow : 0x20 ≤ c.toNat) (hhigh : c.toNat ≤ 0x7E) :
    readByte (.quoted c) = some (charByte c) :=
  if_pos ⟨hlow, hhigh⟩

/-- A semicolon opens a comment, which holds any text. -/
theorem scan_comment (cs : List Char) : scan (';' :: cs) .blank = some [] := rfl

/-- Settles O52: each operand is one token that is read as its byte, and a comment leaves no token. -/
theorem operandsAreRead : Obligations.OperandsAreRead := by
  refine ⟨by decide, by decide, by decide, fun d e a b hd he => ?_, fun c hlow hhigh => ?_,
    fun comment => ⟨?_, rfl⟩, rfl, by decide, fun i => rfl⟩
  · obtain ⟨hda, hta⟩ := digitValue_of_getElem? hd
    obtain ⟨heb, htb⟩ := digitValue_of_getElem? he
    have hbyte := readByte_of_digits hda heb
    exact ⟨hbyte, readLine_update (scan_hexByte hta htb) hbyte, readLine_start (scan_hexByte hta htb) hbyte⟩
  · have hbyte := readByte_quoted hlow hhigh
    exact ⟨hbyte, readLine_update (scan_quoted c) hbyte, readLine_start (scan_quoted c) hbyte⟩
  · exact readLine_command (c := 'I') (w := "DLE".toList) (by decide) (by decide) (scan_comment comment) rfl

end Sys2Proof.Machine

/-! ### The message account of a run -/

namespace Sys2Proof.Machine

/-- Where a step answers a next state, its operation has acted on the register and its word is gone. -/
theorem eq_of_step {s t : State} (h : step s = .next t) :
    t = { crc := newCrc s.nextInstr s.crc, run := s.run.tail } := eq_of_exec h

/-- Folding bytes in two parts (R70). -/
theorem fold_append (r : Word) (m n : List Byte) : fold r (m ++ n) = fold (fold r m) n := List.foldl_append

/-- One word more at the end of a list performs its operation last. -/
theorem crcAfterWords_concat (c : Option Word) (ws : List InWord) (w : InWord) :
    crcAfterWords c (ws ++ [w]) = newCrc (decode w) (crcAfterWords c ws) := crcAfterWords_append c ws [w]

/-- One operation more at the end of a run changes the message as `track` says. -/
theorem messageOf_concat (ops : List Instr) (i : Instr) : messageOf (ops ++ [i]) = track (messageOf ops) i :=
  List.foldl_append

/-- One operation more at the end of a run absorbs its byte last, if it has one. -/
theorem absorbedBytes_concat (ops : List Instr) (i : Instr) :
    absorbedBytes (ops ++ [i]) = absorbedBytes ops ++ (absorbedByte i).toList := by
  rw [absorbedBytes, List.filterMap_append]
  cases i <;> rfl

/-- The register that the message fed since the last load accounts for; where nothing has been loaded, the content `c` at the
start with the bytes absorbed since folded into it. -/
def crcOfMessage (c : Option Word) (bytes : List Byte) : Option (List Byte) → Option Word
  | some m => some (checksum m)
  | none => c.map fun r => fold r bytes

/-- Every operation keeps the account: it changes the register as it changes the message and the bytes absorbed. -/
theorem newCrc_crcOfMessage (i : Instr) (c : Option Word) (bytes : List Byte) (m : Option (List Byte)) :
    newCrc i (crcOfMessage c bytes m) = crcOfMessage c (bytes ++ (absorbedByte i).toList) (track m i) := by
  cases i with
  | reset | init | start => rfl
  | idle => rw [absorbedByte, Option.toList_none, List.append_nil]; rfl
  | update b =>
    cases m with
    | none =>
      cases c with
      | none => rfl
      | some r => exact congrArg some (fold_append r bytes [b]).symm
    | some m => exact congrArg some (checksum_append m [b]).symm

/-- The register after any words is the one that the message and the bytes of their operations account for. -/
theorem crcAfterWords_eq (c : Option Word) (ws : List InWord) :
    crcAfterWords c ws = crcOfMessage c (absorbedBytes (ws.map decode)) (messageOf (ws.map decode)) := by
  induction ws using List.reverseRecOn with
  | nil => cases c <;> rfl
  | append_singleton ws w ih =>
    rw [crcAfterWords_concat, ih, newCrc_crcOfMessage, List.map_append, List.map_singleton, absorbedBytes_concat,
      messageOf_concat]

/-- A register stands for a message exactly when it is accounted for from its own content, with no byte absorbed since. -/
theorem State.tracks_iff (s : State) (m : Option (List Byte)) :
    s.tracks m = true ↔ s.crc = crcOfMessage s.crc [] m := by
  cases m with
  | none => exact iff_of_true rfl Option.map_id'.symm
  | some m => exact s.tracks_some m

/-- A register accounted for from any start stands for the message. -/
theorem State.tracks_of_crc_eq {s : State} {c : Option Word} {bytes : List Byte} {m : Option (List Byte)}
    (h : s.crc = crcOfMessage c bytes m) : s.tracks m = true := by
  cases m with
  | none => rfl
  | some m => exact (s.tracks_some m).mpr h

/-- An operation leaves a value exactly when there was one or it loads. -/
theorem isSome_newCrc (i : Instr) (c : Option Word) : (newCrc i c).isSome = (c.isSome || loads i) := by
  cases i with
  | reset | init | start => exact (Bool.or_true _).symm
  | idle => exact (Bool.or_false _).symm
  | update b => exact Option.isSome_map.trans (Bool.or_false _).symm

/-- Settles O39, by induction on the run from its end: each word's operation keeps the account. -/
theorem everyRunIsItsMessage : Obligations.EveryRunIsItsMessage := by
  intro ws s
  rw [runWords_eq, crcAfterWords_eq]
  cases messageOf (ws.map decode) <;> rfl

/-- Settles O40: the account, started from the state itself, is kept by the one operation of the step. -/
theorem stepKeepsTracking : Obligations.StepKeepsTracking := by
  intro s t m hm hstep
  obtain rfl := eq_of_step hstep
  rw [State.tracks_iff] at hm
  exact State.tracks_of_crc_eq ((congrArg (newCrc s.nextInstr) hm).trans (newCrc_crcOfMessage ..))

/-- Settles O45: a step gives and keeps values as its operation does. -/
theorem knownStaysKnown : Obligations.KnownStaysKnown := by
  intro s t hstep
  obtain rfl := eq_of_step hstep
  exact isSome_newCrc s.nextInstr s.crc

end Sys2Proof.Machine

/-! ### Words by their control bits -/

namespace Sys2Proof.Machine

/-- The control bits of a word and its data select the operation (R38). -/
theorem decode_of_control {w : InWord} {k : BitVec 3} (h : w.extractLsb' 8 3 = k) :
    decode w = InputPorts.operation ⟨k.getLsbD 2, k.getLsbD 1, k.getLsbD 0, w.extractLsb' 0 8⟩ := by
  subst h
  simp only [BitVec.getLsbD_extractLsb']
  rfl

/-- The canonical word of UPDATE as a number (R42). -/
theorem encode_update_toNat (b : Byte) : (encode (.update b)).toNat = 0x100 + b.toNat := by
  rw [encode_eq_word, InputPorts.word_toNat]
  simp [Instr.ports]

/-- The canonical word of START as a number (R42). -/
theorem encode_start_toNat (b : Byte) : (encode (.start b)).toNat = 0x300 + b.toNat := by
  rw [encode_eq_word, InputPorts.word_toNat]
  simp [Instr.ports]

/-- Words of IDLE leave the register as it is (R53). -/
theorem crcAfterWords_of_idle {ws : List InWord} (h : ∀ w ∈ ws, decode w = .idle) (c : Option Word) :
    crcAfterWords c ws = c := by
  induction ws with
  | nil => rfl
  | cons w ws ih =>
    obtain ⟨hw, hws⟩ := List.forall_mem_cons.mp h
    calc crcAfterWords c (w :: ws)
        = crcAfterWords (newCrc (decode w) c) ws := rfl
      _ = crcAfterWords c ws := by rw [hw, newCrc]
      _ = c := ih hws

/-- Settles O2: the words between are IDLE's, and leave the register to the words behind them as they found it. -/
theorem idleIsInvisible : Obligations.IdleIsInvisible := by
  refine ⟨rfl, exec_eq .idle, fun w h => decode_of_control h, fun before idles after s h => ?_,
    step_cons .., step_cons ..⟩
  rw [runWords_eq, runWords_eq, crcAfterWords_append, crcAfterWords_append, crcAfterWords_of_idle h,
    crcAfterWords_append]

/-- Settles O3: INIT does not read the register, so a second one does what the first did. -/
theorem initLoadsZero : Obligations.InitLoadsZero := by
  refine ⟨rfl, exec_eq .init, fun w h => decode_of_control h, exec_eq .init, fun w v s hw hv => ?_, step_cons ..⟩
  rw [runWords_cons, runWords_cons, runWords_cons, hw, hv]
  rfl

/-- Settles O10: the three control bits choose the line of the pseudocode. -/
theorem stepFollowsPseudocode : Obligations.StepFollowsPseudocode := by
  intro c w ws
  have hdecode : decode w =
      InputPorts.operation ⟨w.getLsbD 10, w.getLsbD 9, w.getLsbD 8, w.extractLsb' 0 8⟩ := rfl
  rw [step_cons, hdecode]
  cases w.getLsbD 10 with
  | true => rfl
  | false => cases w.getLsbD 9 <;> cases w.getLsbD 8 <;> rfl

end Sys2Proof.Machine

/-! ### The two halves of the register, and the table -/

namespace Sys2Proof.Machine

/-- A register value is its two halves. -/
theorem append_halves (r : Word) : r.extractLsb' 8 8 ++ r.extractLsb' 0 8 = r :=
  BitVec.extractLsb'_append_extractLsb' (w := 8) (len := 8)

/-- Shifted down by eight, the upper half is what is left (R58). -/
theorem shiftRight_eight (r : Word) : r >>> 8 = zext16 (r.extractLsb' 8 8) :=
  (BitVec.ushiftRight_eq_extractLsb'_of_lt (by decide)).trans (zext16_eq_append _).symm

/-- Bit by bit, the XOR-in is the XOR of the register's bit and the byte's, which has none from 8 up (R48, R39). -/
theorem getLsbD_xorin (r : Word) (b : Byte) (i : Nat) :
    (xorin r b).getLsbD i = (r.getLsbD i ^^ b.getLsbD i) := by
  have hext : (zext16 b).getLsbD i = b.getLsbD i := by
    rw [zext16_eq_append, BitVec.getLsbD_append, BitVec.getLsbD_zero]
    split_ifs with hi
    · rfl
    · exact (BitVec.getLsbD_of_ge b i (by omega)).symm
  rw [xorin, BitVec.getLsbD_xor, hext]

/-- The byte meets the lower half (R48). -/
theorem lowByte_xorin (r : Word) (b : Byte) : (xorin r b).extractLsb' 0 8 = r.extractLsb' 0 8 ^^^ b := by
  rw [xorin, zext16_eq_append, BitVec.extractLsb'_xor]
  exact congrArg _ BitVec.extractLsb'_append_eq_right

/-- The byte leaves the upper half as it is (R48). -/
theorem xorin_shiftRight_eight (r : Word) (b : Byte) : xorin r b >>> 8 = r >>> 8 := by
  rw [xorin, BitVec.ushiftRight_xor_distrib, zext16_shiftRight_eight]
  exact BitVec.xor_zero

/-- The byte-step of an empty register is eight bit-steps of the byte. -/
theorem bytestep_zero_eq (b : Byte) : bytestep 0x0000 b = bitsteps 8 (zext16 b) :=
  congrArg (bitsteps 8) BitVec.zero_xor

/-- A zero byte leaves an empty register empty (R55 a, R60 b). -/
theorem bytestep_zero_zero : bytestep 0x0000 0x00 = 0x0000 := by decide

/-- Eight bit-steps bring the upper half down and put the byte-step of the lower half over it. -/
theorem bitsteps_eight_eq (r : Word) :
    bitsteps 8 r = (r >>> 8) ^^^ bytestep 0x0000 (r.extractLsb' 0 8) := by
  have hhalves : (r.extractLsb' 8 8 ++ 0#8) ^^^ zext16 (r.extractLsb' 0 8) = r := by
    rw [zext16_eq_append, BitVec.xor_append, BitVec.xor_zero, BitVec.zero_xor, append_halves]
  calc bitsteps 8 r
      = bitsteps 8 (r.extractLsb' 8 8 ++ 0#8) ^^^ bitsteps 8 (zext16 (r.extractLsb' 0 8)) := by
        rw [← bitsteps_xor, hhalves]
    _ = (r >>> 8) ^^^ bytestep 0x0000 (r.extractLsb' 0 8) := by
        rw [bitsteps_append_zero, bytestep_zero_eq, shiftRight_eight]

/-- The byte-step by way of the byte-steps of an empty register (R58). -/
theorem bytestep_eq (r : Word) (b : Byte) :
    bytestep r b = (r >>> 8) ^^^ bytestep 0x0000 ((xorin r b).extractLsb' 0 8) := by
  rw [bytestep, bitsteps_eight_eq, xorin_shiftRight_eight]

/-- A byte equal to the lower half brings the upper half down alone (R55 b). -/
theorem bytestep_lowByte (r : Word) : bytestep r (r.extractLsb' 0 8) = (0x00 : Byte) ++ r.extractLsb' 8 8 := by
  rw [bytestep_eq, lowByte_xorin, BitVec.xor_self]
  calc (r >>> 8) ^^^ bytestep 0x0000 0x00
      = (r >>> 8) ^^^ 0x0000 := congrArg _ bytestep_zero_zero
    _ = zext16 (r.extractLsb' 8 8) := BitVec.xor_zero.trans (shiftRight_eight r)
    _ = (0x00 : Byte) ++ r.extractLsb' 8 8 := zext16_eq_append _

/-- The printed table has an entry for every byte and no more (R58). -/
theorem tableT_length : tableT.length = 256 := by decide +kernel

/-- The printed entry of a byte is its byte-step in an empty register (R58). -/
theorem tableT_getElem? (b : Byte) : tableT[b.toNat]? = some (bytestep 0x0000 b) := by
  revert b
  decide +kernel

/-- The entry of a byte, read with a default. -/
theorem tableT_getD (b : Byte) : tableT.getD b.toNat 0x0000 = bytestep 0x0000 b := by
  rw [List.getD_eq_getElem?_getD, tableT_getElem?, Option.getD_some]

/-- Settles O4: UPDATE is not idempotent because the byte-step of one byte merges no two values. -/
theorem updateAbsorbsByte : Obligations.UpdateAbsorbsByte :=
  ⟨fun b r ws => exec_eq (.update b) ⟨some r, ws⟩, fun b ws => exec_eq (.update b) ⟨none, ws⟩,
    fun w h => decode_of_control h, encode_update_toNat, bytestep_zero_zero, bytestep_lowByte, bytestep_lowByte 0xBB3D,
    bytestep_lowByte 0x00FF, ⟨0x31, 0x0000, fun h => absurd (bytestep_injective 0x31 h) (by decide)⟩,
    step_cons ..⟩

/-- Settles O25: the table holds the byte-steps of an empty register, and any byte-step is one of these over the upper half. -/
theorem tableForm : Obligations.TableForm :=
  ⟨tableT_length, tableT_getElem?, fun r b => by rw [tableStep, tableT_getD, ← bytestep_eq]⟩

/-- Settles O5: START does not read the register, and leaves what UPDATE makes of INIT's `0x0000`. -/
theorem startLoadsThenAbsorbs : Obligations.StartLoadsThenAbsorbs := by
  refine ⟨fun b => exec_eq (.start b), fun w h => decode_of_control h, encode_start_toNat, fun b s => ?_, fun s => ?_,
    fun b s => ?_, fun c => step_cons c ..⟩
  · rw [runWords_cons, runWords_cons, runWords_cons, decode_encode, decode_encode, decode_encode]
    rfl
  · rw [exec_eq, newCrc, bytestep_zero_zero]
  · rw [exec_eq, newCrc, tableT_getD]

end Sys2Proof.Machine

/-! ### The arithmetic bit by bit, and the parallel form -/

namespace Sys2Proof.Machine

/-- The set bits of the constant (R50). -/
theorem getLsbD_polyR (i : Nat) : polyR.getLsbD i = decide (i = 15 ∨ i = 13 ∨ i = 0) := by
  by_cases hi : i < 16
  · revert i
    decide
  · rw [BitVec.getLsbD_of_ge polyR i (by omega), decide_eq_false (by omega)]

/-- A bit of the bit-step is the bit above it, XORed with the tested bit where the constant has a bit (R47). -/
theorem getLsbD_bitstep (r : Word) (i : Nat) :
    (bitstep r).getLsbD i = (r.getLsbD (i + 1) ^^ (testedBit r && polyR.getLsbD i)) := by
  cases h : testedBit r with
  | false => simp [bitstep_of_not_testedBit h, Nat.add_comm]
  | true => simp [bitstep_of_testedBit h, Nat.add_comm]

/-- A bit after one bit-step more, by the register before that one. -/
theorem getLsbD_bitsteps_succ (n : Nat) (r : Word) (i : Nat) :
    (bitsteps (n + 1) r).getLsbD i =
      ((bitsteps n r).getLsbD (i + 1) ^^ (testedBit (bitsteps n r) && decide (i = 15 ∨ i = 13 ∨ i = 0))) := by
  rw [bitsteps_add, ← getLsbD_polyR, ← getLsbD_bitstep]
  rfl

/-- Bits that have not met a bit of the constant have only moved down. -/
theorem getLsbD_bitsteps_of_lt {n i : Nat} (hpos : 0 < i) (hlt : i + n < 14) (r : Word) :
    (bitsteps n r).getLsbD i = r.getLsbD (i + n) := by
  induction n generalizing i with
  | zero => rfl
  | succ n ih =>
    have hpoly : ¬(i = 15 ∨ i = 13 ∨ i = 0) := by omega
    rw [getLsbD_bitsteps_succ, ih i.succ_pos (by omega), decide_eq_false hpoly, Bool.and_false, Bool.xor_false,
      Nat.succ_add_eq_add_succ]

/-- The XOR of the bits from 0 up to the given one. -/
def parity (f : Nat → Bool) : Nat → Bool
  | 0 => f 0
  | n + 1 => parity f n ^^ f (n + 1)

/-- Two parities that are two places apart differ by two bits. -/
theorem parity_xor_parity_add_two (f : Nat → Bool) (n : Nat) :
    (parity f n ^^ parity f (n + 2)) = (f (n + 1) ^^ f (n + 2)) := by
  rw [parity, parity, Bool.xor_assoc, ← Bool.xor_assoc, Bool.xor_self, Bool.false_xor]

/-- The bits tested one after the other are the parities of the low bits, until the constant's bit 13 has come down. -/
theorem testedBit_bitsteps {n : Nat} (hn : n < 13) (r : Word) : testedBit (bitsteps n r) = parity r.getLsbD n := by
  induction n with
  | zero => rfl
  | succ n ih =>
    calc testedBit (bitsteps (n + 1) r)
        = ((bitsteps n r).getLsbD 1 ^^ (testedBit (bitsteps n r) && true)) := getLsbD_bitsteps_succ n r 0
      _ = (r.getLsbD (1 + n) ^^ parity r.getLsbD n) := by
          rw [Bool.and_true, ih (by omega), getLsbD_bitsteps_of_lt (by decide) (by omega)]
      _ = parity r.getLsbD (n + 1) := by rw [Bool.xor_comm, Nat.add_comm, parity]

/-- A bit after one bit-step more: the bit above it, XORed with a parity where the constant has a bit. -/
theorem getLsbD_bitsteps_succ_of_lt {n : Nat} (hn : n < 13) (r : Word) (i : Nat) :
    (bitsteps (n + 1) r).getLsbD i =
      ((bitsteps n r).getLsbD (i + 1) ^^ (parity r.getLsbD n && decide (i = 15 ∨ i = 13 ∨ i = 0))) := by
  rw [getLsbD_bitsteps_succ, testedBit_bitsteps hn]

/-- The bits after the XOR-in are the `e_i` of R57. -/
theorem getLsbD_xorin_eq (r : Word) (b : Byte) : (xorin r b).getLsbD = parallelE r b :=
  funext (getLsbD_xorin r b)

/-- From 8 up, where the byte has no bit, `e_i` is the register's bit. -/
theorem parallelE_of_ge {i : Nat} (hi : 8 ≤ i) (r : Word) (b : Byte) : parallelE r b i = r.getLsbD i := by
  rw [parallelE, BitVec.getLsbD_of_ge b i hi, Bool.xor_false]

/-- Settles O24: carried through the eight bit-steps, each bit of the result is a bit from above and at most two parities. -/
theorem parallelEquations : Obligations.ParallelEquations := by
  intro r b i hi
  have hsix : (r.getLsbD 14 ^^ parity (parallelE r b) 0) = parallelBit r b 6 := Bool.xor_comm ..
  have hseven : (r.getLsbD 15 ^^ parity (parallelE r b) 1) = parallelBit r b 7 := Bool.xor_comm ..
  rw [bytestep]
  interval_cases i <;>
    simp [-bitsteps_succ, -BitVec.getLsbD_eq_getElem, getLsbD_bitsteps_succ_of_lt, getLsbD_xorin_eq, parallelE_of_ge,
      parity_xor_parity_add_two, hsix, hseven]
  all_goals rfl

/-- Settles O19: the two cases of the definition. -/
theorem bitstepTestsThenShifts : Obligations.BitstepTestsThenShifts :=
  ⟨fun _ => bitstep_of_testedBit, fun _ => bitstep_of_not_testedBit, by decide, by decide, by decide, by decide,
    by decide, by decide, by decide⟩

/-- Settles O20: the byte has no bit from 8 up. -/
theorem xorinMeetsLowByte : Obligations.XorinMeetsLowByte := by
  refine ⟨fun r b => congrArg (r ^^^ ·) (zext16_eq_append b), fun r b i _ => getLsbD_xorin r b i, fun r b i hi => ?_,
    by decide, by decide, by decide⟩
  rw [getLsbD_xorin, BitVec.getLsbD_of_ge b i hi, Bool.xor_false]

/-- Settles O21: the definition counts eight bit-steps off, and the worked example is evaluated step by step. -/
theorem bytestepIsEightBitsteps : Obligations.BytestepIsEightBitsteps :=
  ⟨fun _ _ => rfl, by decide, by decide, by decide⟩

/-- Settles O22: the bits of the constant, and its reversal. -/
theorem constantBits : Obligations.ConstantBits := by
  refine ⟨fun i => ?_, by decide⟩
  rw [getLsbD_polyR, decide_eq_true_iff]

end Sys2Proof.Machine

/-! ### Linearity, fixed points and orbits -/

namespace Sys2Proof.Machine

/-- The byte-step is linear in the register and the byte together (R59). -/
theorem bytestep_xor (r q : Word) (b d : Byte) :
    bytestep (r ^^^ q) (b ^^^ d) = bytestep r b ^^^ bytestep q d := by
  have hxorin : xorin (r ^^^ q) (b ^^^ d) = xorin r b ^^^ xorin q d := by
    rw [xorin, xorin, xorin, zext16_xor]
    ac_rfl
  rw [bytestep, hxorin, bitsteps_xor]
  rfl

/-- XORing a zero byte in changes nothing. -/
@[simp] theorem xorin_zero (r : Word) : xorin r 0x00 = r := BitVec.xor_zero

/-- The byte and the lower half of the register enter only through their XOR (R59). -/
theorem bytestep_xorin (r : Word) (b : Byte) : bytestep (xorin r b) 0x00 = bytestep r b :=
  congrArg (bitsteps 8) (xorin_zero _)

/-- The byte-step is that of the register XORed with that of the byte (R59). -/
theorem bytestep_eq_xor (r : Word) (b : Byte) : bytestep r b = bytestep r 0x00 ^^^ bytestep 0x0000 b :=
  calc bytestep r b
      = bytestep (r ^^^ 0x0000) (0x00 ^^^ b) := (congrArg₂ bytestep BitVec.xor_zero BitVec.zero_xor).symm
    _ = bytestep r 0x00 ^^^ bytestep 0x0000 b := bytestep_xor ..

/-- Folding is linear in the register and a message of fixed length together (R59). -/
theorem fold_xor {m n : List Byte} (h : m.length = n.length) (r q : Word) :
    fold (r ^^^ q) (List.zipWith (· ^^^ ·) m n) = fold r m ^^^ fold q n := by
  induction m generalizing n r q with
  | nil =>
    obtain rfl := List.length_eq_zero_iff.mp h.symm
    rfl
  | cons b m ih =>
    cases n with
    | nil => cases h
    | cons d n =>
      calc fold (bytestep (r ^^^ q) (b ^^^ d)) (List.zipWith (· ^^^ ·) m n)
          = fold (bytestep r b ^^^ bytestep q d) (List.zipWith (· ^^^ ·) m n) := by rw [bytestep_xor]
        _ = fold (bytestep r b) m ^^^ fold (bytestep q d) n := ih (Nat.succ.inj h) _ _

/-- Settles O26: every step is linear, and the initial value is the XOR of itself with itself. -/
theorem linearOverXor : Obligations.LinearOverXor :=
  ⟨bitstep_xor, bytestep_xor, fun r b => (bytestep_xorin r b).symm, bytestep_eq_xor,
    fun _ _ h => fold_xor h initValue initValue⟩

/-- The value `0xC001` is a fixed point: shifted, it is the constant XORed with itself (R47; log entry 14). -/
theorem bitstep_C001 : bitstep 0xC001 = 0xC001 := by decide

/-- A fixed point whose tested bit is clear is its own half. -/
theorem eq_zero_of_fixed_of_not_testedBit {r : Word} (hfix : bitstep r = r) (htest : testedBit r = false) :
    r = 0x0000 := by
  rw [bitstep_of_not_testedBit htest] at hfix
  have hhalf := congrArg BitVec.toNat hfix
  rw [BitVec.toNat_ushiftRight, Nat.shiftRight_eq_div_pow] at hhalf
  bv_omega

/-- Settles O28: the XOR of a fixed point whose tested bit is set with `0xC001` is a fixed point whose tested bit is clear. -/
theorem fixedPointsOfBitstep : Obligations.FixedPointsOfBitstep := by
  refine fun r => ⟨fun hfix => ?_, ?_⟩
  · cases htest : testedBit r with
    | false => exact .inl (eq_zero_of_fixed_of_not_testedBit hfix htest)
    | true =>
      have hfix' : bitstep (r ^^^ 0xC001) = r ^^^ 0xC001 := by rw [bitstep_xor, hfix, bitstep_C001]
      have htest' : testedBit (r ^^^ 0xC001) = false := by
        rw [testedBit, BitVec.getLsbD_xor, show r.getLsbD 0 = true from htest]
        rfl
      exact .inr (BitVec.xor_eq_zero_iff.mp (eq_zero_of_fixed_of_not_testedBit hfix' htest'))
  · rintro (rfl | rfl)
    · decide
    · exact bitstep_C001

/-- Bit-steps in a row leave a fixed point of the bit-step. -/
theorem bitsteps_of_fixed {r : Word} (h : bitstep r = r) (n : Nat) : bitsteps n r = r := by
  rw [bitsteps_eq_iterate]
  exact Function.iterate_fixed h n

/-- Squaring a sum of two iterates: over XOR the mixed terms cancel. -/
theorem bitsteps_two_mul {m j k : Nat} {r : Word} (h : bitsteps m r = bitsteps j r ^^^ bitsteps k r) :
    bitsteps (2 * m) r = bitsteps (2 * j) r ^^^ bitsteps (2 * k) r := by
  have hcomm (n : Nat) : bitsteps m (bitsteps n r) = bitsteps n (bitsteps j r) ^^^ bitsteps n (bitsteps k r) := by
    rw [← bitsteps_xor, ← h, ← bitsteps_add, ← bitsteps_add, Nat.add_comm]
  have hmixed : bitsteps j (bitsteps k r) = bitsteps k (bitsteps j r) := by
    rw [← bitsteps_add, ← bitsteps_add, Nat.add_comm]
  calc bitsteps (2 * m) r
      = bitsteps m (bitsteps j r ^^^ bitsteps k r) := by rw [Nat.two_mul, bitsteps_add, h]
    _ = bitsteps j (bitsteps j r) ^^^ (bitsteps k (bitsteps j r) ^^^ bitsteps k (bitsteps j r)) ^^^
          bitsteps k (bitsteps k r) := by
        rw [bitsteps_xor, hcomm, hcomm, hmixed]
        ac_rfl
    _ = bitsteps (2 * j) r ^^^ bitsteps (2 * k) r := by
        rw [BitVec.xor_self, BitVec.xor_zero, ← bitsteps_add, ← bitsteps_add, Nat.two_mul, Nat.two_mul]

/-- The `2 ^ n`-th power of a sum of two iterates, by squaring `n` times. -/
theorem bitsteps_two_pow_mul {m j k : Nat} {r : Word} (h : bitsteps m r = bitsteps j r ^^^ bitsteps k r) (n : Nat) :
    bitsteps (2 ^ n * m) r = bitsteps (2 ^ n * j) r ^^^ bitsteps (2 ^ n * k) r := by
  induction n with
  | zero => simpa using h
  | succ n ih => simpa only [Nat.pow_succ', Nat.mul_assoc] using bitsteps_two_mul ih

/-- On `0xC000` the bit-step `T` satisfies `T^256 = T^4 ^ T`; squared seven times, `T^32768 = T^512 ^ T^128`, and that is `T`
again. -/
theorem bitsteps_32768_C000 : bitsteps 32768 0xC000 = bitstep 0xC000 := by
  have h256 : bitsteps 256 0xC000 = bitsteps 4 0xC000 ^^^ bitsteps 1 0xC000 := by decide +kernel
  calc bitsteps 32768 0xC000
      = bitsteps 512 0xC000 ^^^ bitsteps 128 0xC000 := bitsteps_two_pow_mul h256 7
    _ = bitstep 0xC000 := by decide +kernel

/-- The value `0x0001` is `0xC000` XORed with the fixed point, and `0xC000` returns after 32767 bit-steps (R60 c). -/
theorem bitsteps_32767_one : bitsteps 32767 0x0001 = 0x0001 := by
  have hreturn : bitsteps 32767 0xC000 = 0xC000 :=
    bitstep_bijective.injective ((bitsteps_add 32767 1 0xC000).symm.trans bitsteps_32768_C000)
  calc bitsteps 32767 0x0001
      = bitsteps 32767 (0xC000 ^^^ 0xC001) := rfl
    _ = bitsteps 32767 0xC000 ^^^ bitsteps 32767 0xC001 := bitsteps_xor ..
    _ = 0xC000 ^^^ 0xC001 := by rw [hreturn, bitsteps_of_fixed bitstep_C001]
    _ = 0x0001 := rfl

end Sys2Proof.Machine

/-! ### Bijections, and bytes that leave a trace -/

namespace Sys2Proof.Machine

/-- The bit-step undoes the inverse that R60 (a) gives. -/
theorem bitstep_bitstepInv (r : Word) : bitstep (bitstepInv r) = r :=
  Function.LeftInverse.rightInverse_of_surjective bitstepInv_bitstep bitstep_bijective.surjective r

/-- The byte-step of a fixed byte is a bijection (R60 a). -/
theorem bytestep_bijective (b : Byte) : Function.Bijective fun r => bytestep r b :=
  Finite.injective_iff_bijective.mp (bytestep_injective b)

/-- Zero bytes leave an empty register empty (R60 b). -/
theorem fold_zeros (k : Nat) : fold 0x0000 (List.replicate k 0x00) = 0x0000 := by
  induction k with
  | zero => rfl
  | succ k ih => exact (congrArg (fold · (List.replicate k 0x00)) bytestep_zero_zero).trans ih

/-- Zero bytes before a message do not change its checksum (R60 b). -/
theorem checksum_zeros_append (k : Nat) (m : List Byte) : checksum (List.replicate k 0x00 ++ m) = checksum m :=
  (checksum_append ..).trans (congrArg (fold · m) (fold_zeros k))

/-- Settles O27: an injection of the 16-bit values is a bijection, and the orbit closes by `bitsteps_32767_one`. -/
theorem bijectionAndZeroBytes : Obligations.BijectionAndZeroBytes := by
  have hone : checksum [0x31] = 0xD4C1 := by decide
  exact ⟨fun r => ⟨bitstepInv_bitstep r, bitstep_bitstepInv r⟩, getLsbD_bitstep_fifteen,
    fun b => ⟨fun _ _ h => bytestep_injective b h, (bytestep_bijective b).surjective⟩,
    bytestep_zero_zero, fold_zeros, checksum_zeros_append, (checksum_zeros_append 1 [0x31]).trans hone, hone,
    checksum_pair_of_bytesteps hone (by decide), bitsteps_32767_one⟩

/-- Into a fixed register two different bytes are not XORed in alike. -/
theorem xorin_injective_right (r : Word) : Function.Injective (xorin r) := fun b d h =>
  (BitVec.xor_right_inj _).mp ((lowByte_xorin r b).symm.trans ((congrArg _ h).trans (lowByte_xorin r d)))

/-- From a fixed register two different bytes do not lead to one value. -/
theorem bytestep_injective_right (r : Word) : Function.Injective (bytestep r) :=
  (bitsteps_bijective 8).injective.comp (xorin_injective_right r)

/-- Folding a fixed message merges no two register values. -/
theorem fold_injective (m : List Byte) : Function.Injective fun r => fold r m := by
  induction m with
  | nil => exact Function.injective_id
  | cons b m ih => exact ih.comp (bytestep_injective b)

/-- Settles O30: the changed byte leads to another value, and the bytes behind it keep the two apart. -/
theorem singleByteChangeDetected : Obligations.SingleByteChangeDetected := by
  intro before after b d hne h
  rw [checksum_append, checksum_append] at h
  exact hne (bytestep_injective_right _ (fold_injective after h))

end Sys2Proof.Machine

/-! ### The unmasked form -/

namespace Sys2Proof.Machine

/-- The document's bit-step on the number of a register value is that of the bit-step (R51). -/
theorem wideBitstep_toNat (r : Word) : wideBitstep r.toNat = (bitstep r).toNat := by
  have htest : testedBit r = decide (r.toNat % 2 = 1) := Nat.testBit_zero r.toNat
  have hshift : (r >>> 1).toNat = r.toNat / 2 := by
    rw [BitVec.toNat_ushiftRight, Nat.shiftRight_eq_div_pow, Nat.pow_one]
  rw [wideBitstep, ← hshift]
  split_ifs with hodd
  · rw [bitstep_of_testedBit (htest.trans (decide_eq_true hodd)), BitVec.toNat_xor]
    rfl
  · rw [bitstep_of_not_testedBit (htest.trans (decide_eq_false hodd))]

/-- So are several of them in a row. -/
theorem wideBitsteps_toNat (n : Nat) (r : Word) : wideBitsteps n r.toNat = (bitsteps n r).toNat := by
  induction n generalizing r with
  | zero => rfl
  | succ n ih => rw [wideBitsteps, wideBitstep_toNat, ih, bitsteps_succ]

/-- The document's body of the loop gives the number of the byte-step (R51). -/
theorem wideBytestep_toNat (r : Word) (b : Byte) : wideBytestep r.toNat b.toNat = (bytestep r b).toNat := by
  have hxorin : r.toNat ^^^ b.toNat = (xorin r b).toNat := by
    rw [xorin, BitVec.toNat_xor, zext16, BitVec.toNat_setWidth_of_le (by decide)]
  rw [wideBytestep, hxorin, wideBitsteps_toNat, bytestep]

/-- The document's loop gives the number of the folded register (R51). -/
theorem wideFold_toNat (r : Word) (m : List Byte) : wideFold r.toNat (m.map BitVec.toNat) = (fold r m).toNat := by
  induction m generalizing r with
  | nil => rfl
  | cons b m ih =>
    calc wideFold (wideBytestep r.toNat b.toNat) (m.map BitVec.toNat)
        = wideFold (bytestep r b).toNat (m.map BitVec.toNat) := by rw [wideBytestep_toNat]
      _ = (fold (bytestep r b) m).toNat := ih _

/-- Settles O29: the number that the loop ends in is that of a 16-bit value. -/
theorem maskIsIdentity : Obligations.MaskIsIdentity := by
  intro r m
  rw [wideFold_toNat]
  exact ⟨rfl, Nat.mod_eq_of_lt (fold r m).isLt⟩

end Sys2Proof.Machine

/-! ### Messages: the check value, the residue, and the canonical run -/

namespace Sys2Proof.Machine

/-- Folding one byte more absorbs it first (R63). -/
theorem fold_cons (r : Word) (b : Byte) (m : List Byte) : fold r (b :: m) = fold (bytestep r b) m := rfl

/-- Absorbing a value's own halves, the lower one first, leaves nothing of it (R75 b). -/
theorem fold_halves (r : Word) : fold r [r.extractLsb' 0 8, r.extractLsb' 8 8] = 0x0000 := by
  calc fold r [r.extractLsb' 0 8, r.extractLsb' 8 8]
      = bytestep (bytestep r (r.extractLsb' 0 8)) (r.extractLsb' 8 8) := rfl
    _ = bitsteps 16 (r ^^^ r) := by rw [bytestep_bytestep, append_halves]
    _ = 0x0000 := by rw [BitVec.xor_self]; exact bitsteps_of_fixed (by decide) 16

/-- The register half-way through the document's example (R64, R70). -/
theorem checksum_12345 : checksum [0x31, 0x32, 0x33, 0x34, 0x35] = 0xA455 := by decide +kernel

/-- The second half of the document's example goes on from the first to the check value (R64, R70). -/
theorem fold_6789 : fold 0xA455 [0x36, 0x37, 0x38, 0x39] = 0xBB3D := by decide +kernel

/-- Words of IDLE after any words end the run as it ended without them (R66). -/
theorem runWords_append_idles {ws idles : List InWord} (h : ∀ w ∈ idles, decode w = .idle) (s : State) :
    runWords (ws ++ idles) s = runWords ws s := by
  rw [runWords_eq, runWords_eq, crcAfterWords_append, crcAfterWords_of_idle h]

/-- The canonical words are one a byte, and one for the empty message (R66). -/
theorem length_messageWords (m : List Byte) : (messageWords m).length = max 1 m.length := by
  cases m with
  | nil => rfl
  | cons b m => simp [continueWords, continueOps]

/-- Settles O31: a message is absorbed from `0x0000` by definition, and the example is evaluated. -/
theorem checksumOfMessage : Obligations.ChecksumOfMessage :=
  ⟨checksum_nil, fold_cons, fun _ => rfl, fun _ => rfl, by decide +kernel⟩

/-- Settles O33: the first word loads without reading the register, and each UPDATE folds in its byte. -/
theorem canonicalRunComputesChecksum : Obligations.CanonicalRunComputesChecksum :=
  fun s m => runWords_messageWords m s

/-- Settles O34: the IDLEs leave the run of the message as it ended. -/
theorem canonicalRunHoldsResult : Obligations.CanonicalRunHoldsResult :=
  ⟨rfl, fun _ _ => rfl, length_messageWords, fun s m _ hidles =>
    ⟨_, (runWords_append_idles hidles s).trans (runWords_messageWords m s), rfl⟩⟩

/-- Settles O37: the words of the second piece fold its bytes into the checksum that the first piece and the IDLEs leave. -/
theorem continuationWithoutLoad : Obligations.ContinuationWithoutLoad := by
  refine ⟨fold_append, checksum_append, fun s m n idles hidles => ?_, fun r ws n => runWords_continueWords n r ws,
    checksum_12345, fold_6789, by decide +kernel⟩
  have hfirst := (runWords_append_idles hidles s).trans (runWords_messageWords m s)
  rw [runWords_append hfirst, runWords_continueWords, checksum_append]

/-- Settles O38: the checksum is absorbed half by half into itself. -/
theorem residueIsZero : Obligations.ResidueIsZero := by
  refine ⟨fun m => (checksum_append ..).trans (fold_halves _), ?_⟩
  calc checksum ([0x31, 0x32, 0x33, 0x34, 0x35] ++ ([0x36, 0x37, 0x38, 0x39] ++ [0xBB, 0x3D]))
      = fold 0xBB3D [0xBB, 0x3D] := by rw [checksum_append, checksum_12345, fold_append, fold_6789]
    _ = 0xC2E3 := by decide +kernel

end Sys2Proof.Machine

/-! ### Runs that end by feeding a message, and runs that load -/

namespace Sys2Proof.Machine

/-- IDLEs do not change the message fed. -/
theorem foldl_track_filter_not_isIdle (ops : List Instr) (m : Option (List Byte)) :
    (ops.filter fun i => !isIdle i).foldl track m = ops.foldl track m := by
  induction ops generalizing m with
  | nil => rfl
  | cons i ops ih =>
    cases i with
    | idle => exact ih m
    | reset | init | update | start => exact ih _

/-- UPDATEs add their bytes to the message fed. -/
theorem foldl_track_continueOps (m n : List Byte) : (continueOps n).foldl track (some m) = some (m ++ n) := by
  induction n generalizing m with
  | nil => rw [List.append_nil]; rfl
  | cons b n ih =>
    calc (continueOps (b :: n)).foldl track (some m)
        = (continueOps n).foldl track (some (m ++ [b])) := rfl
      _ = some (m ++ b :: n) := by rw [ih, List.append_assoc, List.singleton_append]

/-- The canonical operations of a message feed it, whatever was fed before (R66). -/
theorem foldl_track_messageOps (m : List Byte) (old : Option (List Byte)) :
    (messageOps m).foldl track old = some m := by
  cases m with
  | nil => rfl
  | cons b m => exact foldl_track_continueOps [b] m

/-- Operations that feed the one message leave it as the message fed, whatever was fed before (R67 d). -/
theorem foldl_track_of_feeds {m : List Byte} {ops : List Instr} (h : feeds m ops = true) (old : Option (List Byte)) :
    ops.foldl track old = some m := by
  simp only [feeds, Bool.or_eq_true, beq_iff_eq, or_assoc] at h
  rw [← foldl_track_filter_not_isIdle]
  obtain hstart | hinit | hreset := h
  · rw [hstart]; exact foldl_track_messageOps m old
  · rw [hinit]; exact foldl_track_continueOps [] m
  · rw [hreset]; exact foldl_track_continueOps [] m

/-- Words that contain a load leave the same from any two contents. -/
theorem crcAfterWords_of_loads {ws : List InWord} {w : InWord} (hmem : w ∈ ws) (hload : loads (decode w) = true)
    (c c' : Option Word) : crcAfterWords c ws = crcAfterWords c' ws := by
  obtain ⟨before, after, rfl⟩ := List.append_of_mem hmem
  rw [crcAfterWords_append, crcAfterWords_append]
  exact congrArg (crcAfterWords · after) (newCrc_of_loads hload _ _)

/-- Settles O36: the register is accounted for by the message fed since the last load, and that message is `m`. -/
theorem equivalentRuns : Obligations.EquivalentRuns := by
  intro s m before ws hfeeds
  have hmessage : messageOf ((before ++ ws).map decode) = some m := by
    rw [List.map_append, messageOf, List.foldl_append]
    exact foldl_track_of_feeds hfeeds _
  rw [runWords_eq, crcAfterWords_eq, hmessage, crcOfMessage]

/-- Settles O46: both runs leave the load the same content, and so all that comes after it. -/
theorem loadForgetsThePast : Obligations.LoadForgetsThePast := by
  rintro ws s s' ⟨w, hmem, hload⟩
  rw [runWords_eq, runWords_eq, crcAfterWords_of_loads hmem hload]

end Sys2Proof.Machine

/-! ### The trailer and its receiver -/

namespace Sys2Proof.Machine

/-- A digit below ten is a character from `0` up (R73). -/
theorem hexChar_toNat_of_lt {d : BitVec 4} (h : d.toNat < 10) : (hexChar d).toNat = 0x30 + d.toNat := by
  rw [hexChar, if_pos h]
  bv_omega

/-- Any other digit is a letter from `A` up (R73). -/
theorem hexChar_toNat_of_ge {d : BitVec 4} (h : 10 ≤ d.toNat) : (hexChar d).toNat = 0x41 + (d.toNat - 10) := by
  rw [hexChar, if_neg (Nat.not_lt.mpr h)]
  bv_omega

/-- No two digits have the same character: the letters come after the characters of the digits below ten. -/
theorem hexChar_injective : Function.Injective hexChar := by
  intro d e h
  have hnat := congrArg BitVec.toNat h
  apply BitVec.eq_of_toNat_eq
  rcases Nat.lt_or_ge d.toNat 10 with hd | hd <;> rcases Nat.lt_or_ge e.toNat 10 with he | he
  · rw [hexChar_toNat_of_lt hd, hexChar_toNat_of_lt he] at hnat; omega
  · rw [hexChar_toNat_of_lt hd, hexChar_toNat_of_ge he] at hnat; omega
  · rw [hexChar_toNat_of_ge hd, hexChar_toNat_of_lt he] at hnat; omega
  · rw [hexChar_toNat_of_ge hd, hexChar_toNat_of_ge he] at hnat; omega

/-- A value is its four digits, the most significant first (R73). -/
theorem append_digits (c : Word) : digit c 1 ++ (digit c 2 ++ (digit c 3 ++ digit c 4)) = c := by
  have h34 : digit c 3 ++ digit c 4 = c.extractLsb' 0 8 := BitVec.extractLsb'_append_extractLsb'_eq_extractLsb' rfl
  have h234 : digit c 2 ++ c.extractLsb' 0 8 = c.extractLsb' 0 12 :=
    BitVec.extractLsb'_append_extractLsb'_eq_extractLsb' rfl
  have h1234 : digit c 1 ++ c.extractLsb' 0 12 = c := BitVec.extractLsb'_append_extractLsb'
  rw [h34, h234, h1234]

/-- The rendering tells any two values apart (R73). -/
theorem renderDigits_injective : Function.Injective renderDigits := by
  intro c c' h
  simp only [renderDigits, List.cons.injEq, hexChar_injective.eq_iff, and_true] at h
  obtain ⟨h1, h2, h3, h4⟩ := h
  rw [← append_digits c, ← append_digits c', h1, h2, h3, h4]

/-- The receiver's test of four digits and two more bytes behind covered bytes: the digits are those of their checksum (R75 a). -/
theorem verifies_covered_append {received ending : List Byte} (hreceived : received.length = 4)
    (hending : ending.length = 2) (body : List Byte) :
    verifies (covered body ++ (received ++ ending)) = (received == renderDigits (checksum (covered body))) := by
  have hprefix : (covered body ++ (received ++ ending)).length - 6 = (covered body).length := by
    rw [List.length_append, List.length_append, hreceived, hending, Nat.add_sub_cancel]
  have hlast : (covered body).getLast? = some terminator := List.getLast?_concat
  rw [verifies, hprefix, List.take_left, List.drop_left, List.take_left' hreceived, hlast, beq_self_eq_true,
    Bool.true_and]

/-- Settles O54: the digits and their characters, each told apart. -/
theorem renderedDigits : Obligations.RenderedDigits := by
  refine ⟨fun _ => rfl, fun c k hlow hhigh => ?_, fun _ => hexChar_toNat_of_lt, fun _ => hexChar_toNat_of_ge,
    fun _ _ h => renderDigits_injective h, fun _ => rfl, by decide, by decide, by decide, by decide⟩
  interval_cases k <;> rfl

/-- Settles O55: behind the covered bytes the test compares the digits only, and the host renders the right ones. -/
theorem receiverRecomputes : Obligations.ReceiverRecomputes := by
  refine ⟨fun body => ?_, fun body received ending hreceived hending => ?_⟩
  · exact (verifies_covered_append rfl rfl body).trans (beq_self_eq_true _)
  · rw [List.append_assoc]
    exact (verifies_covered_append hreceived hending body) ▸ beq_iff_eq

end Sys2Proof.Machine

/-! ### Totality and the precedence of the inputs -/

namespace Sys2Proof.Machine

/-- Every step answers a next state: the operation acts on the register and the word on the inputs is gone (R62, R76). -/
theorem step_eq (s : State) : step s = .next { crc := newCrc s.nextInstr s.crc, run := s.run.tail } :=
  exec_eq s.nextInstr s.dropInput

/-- Every number of steps answers a next state (R76). -/
theorem exists_steps_eq_next (k : Nat) (s : State) : ∃ t, steps k s = .next t := by
  induction k generalizing s with
  | zero => exact ⟨s, steps_zero s⟩
  | succ k ih => exact steps_succ (step_eq s) k ▸ ih _

/-- Settles O12: `exec_eq` names the next state of an instruction, and a run of steps is one such state after another. -/
theorem noStepEverStops : Obligations.NoStepEverStops :=
  ⟨fun i s => ⟨_, exec_eq i s⟩, fun s => ⟨_, step_eq s⟩, exists_steps_eq_next⟩

/-- Without `rst` the inputs act in the order `init`, `valid`: the byte meets what `init` has made of the register (R79). -/
theorem newCrc_operation_of_not_rst {p : InputPorts} (h : p.rst = false) (c : Option Word) :
    newCrc p.operation c =
      let taken := if p.init = true then some 0x0000 else c
      if p.valid = true then taken.map fun r => bytestep r p.data else taken := by
  obtain ⟨rst, init, valid, data⟩ := p
  obtain rfl : rst = false := h
  cases init with
  | false => cases valid <;> rfl
  | true => cases valid <;> rfl

/-- Settles O11: with `rst` the operation is RESET, and without it `init` comes before `valid`. -/
theorem priorityOfInputs : Obligations.PriorityOfInputs := by
  intro p c ws taken
  rw [step_cons, decode_word]
  cases hrst : p.rst with
  | true => rw [InputPorts.operation_of_rst hrst]; rfl
  | false => rw [newCrc_operation_of_not_rst hrst]; rfl

end Sys2Proof.Machine

/-! ### Reset, boot and sampling while feeding -/

namespace Sys2Proof.Machine

/-- The first `k` words of a message, at least one, are the words of its first `k` bytes (R66). -/
theorem take_messageWords {k : Nat} (hk : 1 ≤ k) {m : List Byte} (hm : m ≠ []) :
    (messageWords m).take k = messageWords (m.take k) := by
  obtain ⟨k, rfl⟩ := Nat.exists_eq_add_of_le' hk
  obtain ⟨b, m, rfl⟩ := List.exists_cons_of_ne_nil hm
  simp [continueWords, continueOps, List.map_take]

/-- Settles O35: after `k` edges the register is that of the run of the first `k` words, which is the canonical run of the first
`k` bytes. -/
theorem prefixShownWhileFeeding : Obligations.PrefixShownWhileFeeding := by
  intro s m k hpos hle
  have hm : m ≠ [] := List.ne_nil_of_length_pos (Nat.lt_of_lt_of_le hpos hle)
  have hlength : k ≤ (messageWords m).length := length_messageWords m ▸ hle.trans (Nat.le_max_right ..)
  obtain ⟨_, hprefix⟩ := runsCompose
  obtain ⟨c, hsteps, hrun⟩ := hprefix (messageWords m) k s hlength
  rw [take_messageWords hpos hm, runWords_messageWords] at hrun
  obtain ⟨hcrc, -⟩ := State.mk.inj (Host.Outcome.next.inj hrun)
  exact ⟨_, hsteps, hcrc.symm, rfl⟩

/-- Words with `rst = 1`, one or more, leave `0x0000`: the last of them does so whatever the others left (R89). -/
theorem crcAfterWords_of_rst {resets : List InWord} (hne : resets ≠ []) (hrst : ∀ w ∈ resets, w.rst = true)
    (c : Option Word) : crcAfterWords c resets = some 0x0000 := by
  rw [← List.dropLast_concat_getLast hne, crcAfterWords_concat, decode_of_rst (hrst _ (List.getLast_mem hne)), newCrc]

/-- Settles O43: the words of the reset leave `0x0000`, and the word after them is performed from there. -/
theorem heldReset : Obligations.HeldReset := by
  intro resets s hne hrst
  have hreset : runWords resets s = .next { crc := some 0x0000, run := [] } := by
    rw [runWords_eq, crcAfterWords_of_rst hne hrst]
  exact ⟨hreset, fun w => runWords_append hreset [w]⟩

/-- After any words there is no value exactly if there was none before and no word loads (R90). -/
theorem crcAfterWords_eq_none_iff (c : Option Word) (ws : List InWord) :
    crcAfterWords c ws = none ↔ c = none ∧ ∀ w ∈ ws, loads (decode w) = false := by
  induction ws generalizing c with
  | nil => simp [crcAfterWords]
  | cons w ws ih =>
    have hstep : newCrc (decode w) c = none ↔ c = none ∧ loads (decode w) = false := by
      rw [← Option.not_isSome_iff_eq_none, isSome_newCrc, Bool.or_eq_true, not_or, Option.not_isSome_iff_eq_none,
        Bool.not_eq_true]
    calc crcAfterWords c (w :: ws) = none
        ↔ newCrc (decode w) c = none ∧ ∀ v ∈ ws, loads (decode v) = false := ih _
      _ ↔ c = none ∧ ∀ v ∈ w :: ws, loads (decode v) = false := by
        rw [hstep, List.forall_mem_cons, and_assoc]

/-- Settles O44: power-on has no value, so a load is all that can bring one. -/
theorem noValueUntilFirstLoad : Obligations.NoValueUntilFirstLoad := by
  intro ws
  refine ⟨_, runWords_eq ws .powerOn, ?_, fun hnone v => ?_⟩
  · exact (crcAfterWords_eq_none_iff none ws).trans (and_iff_right rfl)
  · have hcrc : crcAfterWords State.powerOn.crc ws = none := hnone
    rw [hcrc]
    exact State.shows_none v []

/-- One operation more at the beginning of a run absorbs its byte first, if it has one. -/
theorem absorbedBytes_cons (i : Instr) (ops : List Instr) :
    absorbedBytes (i :: ops) = (absorbedByte i).toList ++ absorbedBytes ops := by
  cases i <;> rfl

/-- A load begins the message that holds its own byte, if it has one, whatever was fed before. -/
theorem track_of_loads {i : Instr} (h : loads i = true) (old : Option (List Byte)) :
    track old i = some (absorbedByte i).toList := by
  cases i with
  | reset | init | start => rfl
  | idle | update => cases h

/-- An operation that does not load adds its byte to the message, if it has one. -/
theorem track_of_not_loads {i : Instr} (h : loads i = false) (m : List Byte) :
    track (some m) i = some (m ++ (absorbedByte i).toList) := by
  cases i with
  | reset | init | start => cases h
  | idle => exact congrArg some (List.append_nil m).symm
  | update => rfl

/-- Operations of which none loads add all the bytes they absorb to the message. -/
theorem foldl_track_of_not_loads {ops : List Instr} (h : ∀ i ∈ ops, loads i = false) (m : List Byte) :
    ops.foldl track (some m) = some (m ++ absorbedBytes ops) := by
  induction ops generalizing m with
  | nil => exact congrArg some (List.append_nil m).symm
  | cons i ops ih =>
    obtain ⟨hi, hops⟩ := List.forall_mem_cons.mp h
    rw [List.foldl_cons, track_of_not_loads hi, ih hops, absorbedBytes_cons, List.append_assoc]

/-- Operations that meet the boot requirement and load once feed all the bytes they absorb: before the load there are only
IDLEs, and after it nothing begins another message (R92, R93). -/
theorem foldl_track_of_boots {ops : List Instr} (hboots : boots ops = true) (honce : (ops.filter loads).length = 1)
    (old : Option (List Byte)) : ops.foldl track old = some (absorbedBytes ops) := by
  induction ops with
  | nil => cases hboots
  | cons i ops ih =>
    cases hload : loads i with
    | true =>
      have hrest : ∀ j ∈ ops, loads j = false := by
        simpa [List.filter_cons, hload] using honce
      rw [List.foldl_cons, track_of_loads hload, foldl_track_of_not_loads hrest, absorbedBytes_cons]
    | false =>
      cases i with
      | idle => exact ih hboots honce
      | update => cases hboots
      | reset | init | start => cases hload

/-- Settles O47: the message fed since the one load is all that was absorbed, and the register is accounted for by it. -/
theorem firstMessageAfterBoot : Obligations.FirstMessageAfterBoot := by
  intro ws s hboots honce
  have hmessage : messageOf (ws.map decode) = some (absorbedBytes (ws.map decode)) :=
    foldl_track_of_boots hboots honce none
  rw [runWords_eq, crcAfterWords_eq, hmessage, crcOfMessage]

/-- Settles O1: `rst` alone selects RESET, and RESET loads without reading the register. -/
theorem resetLoadsZero : Obligations.ResetLoadsZero := by
  refine ⟨rfl, exec_eq .reset, fun w ws c hrst => ?_, fun _ => rfl, step_cons .., step_cons ..⟩
  have hdecode : decode w = .reset := decode_of_rst hrst
  exact ⟨hdecode, by rw [step_cons, hdecode, newCrc]⟩

end Sys2Proof.Machine
